-- ==== Sys2Proof/Word.lean ====
section
/-! DEFINITION. The word types of RFGEN-DDS (spec/00_scope.md R8, spec/30_encoding.md R81). -/

namespace Sys2Proof

/-- A byte of the DDS data bus, and an amplitude sample (R40). -/
abbrev Byte := BitVec 8

/-- A 32-bit register, operand or window word (R8, R66). -/
abbrev Word := BitVec 32

/-- A 40-bit command word CMD[39:0] (R81). -/
abbrev Command := BitVec 40

end Sys2Proof
end

