-- ==== Sys2Proof/Syntax.lean ====
section
/-! DEFINITION. The command set RFGEN-DDS-CMD 1 (spec/30_encoding.md R87): one constructor of Instr per row of
spec/opcode_table.json, and the raw command word and assembler statements around it. -/

namespace Sys2Proof

/-- The ten commands of R87. The operand of an F1 command is the 32 bits of OPD as they stand in the command word; how
they are read (R84 signed, R85 unsigned) is Machine/Operands.lean's. -/
inductive Instr where
  /-- NOP, 0x00, F0 (R211). -/
  | nop
  /-- RESET_CHIP, 0x01, F0 (R131). -/
  | resetChip
  /-- SET_FA f, 0x02, F1 (R213). -/
  | setFa (f : Word)
  /-- SET_FB f, 0x03, F1 (R214). -/
  | setFb (f : Word)
  /-- TUNE f, 0x04, F1 (R121). -/
  | tune (f : Word)
  /-- PROGRAM w, 0x05, F1 (R123). -/
  | program (w : Word)
  /-- SET_FREQ f, 0x06, F1 (R125). -/
  | setFreq (f : Word)
  /-- FM_RUN, 0x07, F0 (R151). -/
  | fmRun
  /-- AM_RUN, 0x08, F0 (R161). -/
  | amRun
  /-- SWEEP_RUN, 0x09, F0 (R181). -/
  | sweepRun
deriving DecidableEq, Repr

/-- The two fields of a command word, before decoding: OP = CMD[39:32] and OPD = CMD[31:0] (R81). -/
structure RawCommand where
  op  : Byte
  opd : Word
deriving DecidableEq, Repr

/-- The mnemonics of the opcode map (R87), as the assembler syntax names them (R92). -/
inductive Mnemonic where
  | nop | resetChip | setFa | setFb | tune | program | setFreq | fmRun | amRun | sweepRun
deriving DecidableEq, Repr

/-- The formats of R81, with the reading R92 gives the immediate of an F1 command: no operand (F0), a signed
frequency, or an unsigned tuning word. -/
inductive Format where
  | noOperand | signedImm | unsignedImm
deriving DecidableEq, Repr

/-- An assembler immediate: a decimal integer, or a hexadecimal number that gives the bits directly (R92). -/
inductive Imm where
  | dec (n : Int)
  | hex (n : Nat)
deriving DecidableEq, Repr

/-- An assembler statement: one command (R92), or one of the four pseudo-instructions (R93). -/
inductive Stmt where
  | command (m : Mnemonic) (imm : Option Imm)
  /-- `SWEEP lo, hi`. -/
  | sweep (lo hi : Imm)
  /-- `FM f`. -/
  | fm (f : Imm)
  /-- `AM f`. -/
  | am (f : Imm)
  /-- `BOOT`. -/
  | boot
deriving DecidableEq, Repr

end Sys2Proof
end

