-- ==== Sys2Proof/WellFormed.lean ====
section
/-! DEFINITION. Which command words and assembler operands are well-formed (spec/30_encoding.md R88, R89, R90, R92). -/

namespace Sys2Proof

/-- A raw command is well-formed when its opcode is not reserved (R88) and, if the opcode's format is F0, its operand
is zero (R89). -/
def RawCommand.wf (c : RawCommand) : Bool :=
  decide (c.op.toNat ≤ 0x09) &&
    (!(c.op == 0x00 || c.op == 0x01 || c.op == 0x07 || c.op == 0x08 || c.op == 0x09) || c.opd == 0)

/-- Every Instr is well-formed: an F1 command has no illegal operand value at decode (R90), and an F0 command has no
operand in its constructor. What can be ill-formed is a raw command word or an assembler immediate. -/
def Instr.wf : Instr → Bool
  | .nop | .resetChip | .setFa _ | .setFb _ | .tune _ | .program _ | .setFreq _ | .fmRun | .amRun | .sweepRun => true

/-- Whether an optional immediate fits a format (R92): none for F0; a decimal in [-2^31, 2^31 - 1] for a frequency and
in [0, 2^32 - 1] for a tuning word; a hexadecimal of at most 32 bits. -/
def Format.accepts : Format → Option Imm → Bool
  | .noOperand, imm => imm.isNone
  | .signedImm, some (.dec n) => decide (-2147483648 ≤ n ∧ n ≤ 2147483647)
  | .signedImm, some (.hex n) => decide (n < 4294967296)
  | .unsignedImm, some (.dec n) => decide (0 ≤ n ∧ n ≤ 4294967295)
  | .unsignedImm, some (.hex n) => decide (n < 4294967296)
  | .signedImm, none => false
  | .unsignedImm, none => false

end Sys2Proof
end

