-- ==== Sys2Proof/Decode.lean ====
section
/-! DEFINITION. The decoder (spec/30_encoding.md R81, R90), total on all 2^40 command words and on byte lists, and after
it the encoder written from the opcode map (R87, R92). -/

namespace Sys2Proof

/-- Why a word is ILLEGAL (R88, R89), or a byte link's bytes are not one command (R68, R91). -/
inductive DecodeError where
  /-- An opcode in 0x0A-0xFF (R88). -/
  | reservedOpcode (op : Byte)
  /-- An F0 opcode with OPD ≠ 0 (R89). -/
  | operandNotZero (op : Byte) (opd : Word)
  /-- Not five bytes: the block has one command length, 40 bits (R91). -/
  | notFiveBytes (n : Nat)
deriving DecidableEq, Repr

/-- OP = CMD[39:32] (R81). -/
def opOf (w : Command) : Byte := w.extractLsb' 32 8

/-- OPD = CMD[31:0] (R81). -/
def opdOf (w : Command) : Word := w.extractLsb' 0 32

/-- The case of an F0 opcode: the command when OPD = 0, else ILLEGAL (R89, R90). -/
def decodeF0 (op : Byte) (opd : Word) (i : Instr) : Except DecodeError Instr :=
  if opd = 0 then .ok i else .error (.operandNotZero op opd)

/-- `decode(op, opd)` of R90. -/
def decode (op : Byte) (opd : Word) : Except DecodeError Instr :=
  match op with
  | 0x00#8 => decodeF0 op opd .nop
  | 0x01#8 => decodeF0 op opd .resetChip
  | 0x02#8 => .ok (.setFa opd)
  | 0x03#8 => .ok (.setFb opd)
  | 0x04#8 => .ok (.tune opd)
  | 0x05#8 => .ok (.program opd)
  | 0x06#8 => .ok (.setFreq opd)
  | 0x07#8 => decodeF0 op opd .fmRun
  | 0x08#8 => decodeF0 op opd .amRun
  | 0x09#8 => decodeF0 op opd .sweepRun
  | _ => .error (.reservedOpcode op)

/-- Decoding a whole command word (R83, R90). -/
def decodeCommand (w : Command) : Except DecodeError Instr := decode (opOf w) (opdOf w)

/-- The command word that a byte-wide link carries as these five bytes: big-endian, opcode byte first, then operand
bits 31:24 down to 7:0 (R68, D30). -/
def commandOfBytes : List Byte → Except DecodeError Command
  | [op, b3, b2, b1, b0] => .ok (op ++ b3 ++ b2 ++ b1 ++ b0)
  | bs => .error (.notFiveBytes bs.length)

/-- Decoding the bytes of a byte-wide link (R68, R90). -/
def decodeBytes (bs : List Byte) : Except DecodeError Instr :=
  match commandOfBytes bs with
  | .ok w => decodeCommand w
  | .error e => .error e

/-- The opcode of each mnemonic (R87). -/
def Mnemonic.opcode : Mnemonic → Byte
  | .nop => 0x00
  | .resetChip => 0x01
  | .setFa => 0x02
  | .setFb => 0x03
  | .tune => 0x04
  | .program => 0x05
  | .setFreq => 0x06
  | .fmRun => 0x07
  | .amRun => 0x08
  | .sweepRun => 0x09

/-- The format of each mnemonic (R87, R92). -/
def Mnemonic.format : Mnemonic → Format
  | .nop | .resetChip | .fmRun | .amRun | .sweepRun => .noOperand
  | .setFa | .setFb | .tune | .setFreq => .signedImm
  | .program => .unsignedImm

/-- The mnemonic of a command (R87). -/
def Instr.mnemonic : Instr → Mnemonic
  | .nop => .nop
  | .resetChip => .resetChip
  | .setFa _ => .setFa
  | .setFb _ => .setFb
  | .tune _ => .tune
  | .program _ => .program
  | .setFreq _ => .setFreq
  | .fmRun => .fmRun
  | .amRun => .amRun
  | .sweepRun => .sweepRun

/-- The OPD field of a command: its operand in F1, zero in F0 (R81). -/
def Instr.operand : Instr → Word
  | .setFa f | .setFb f | .tune f | .setFreq f => f
  | .program w => w
  | .nop | .resetChip | .fmRun | .amRun | .sweepRun => 0

/-- The command word of two fields, OP in the more significant position (R81). -/
def commandOfFields (op : Byte) (opd : Word) : Command := op ++ opd

/-- The encoding of a command: the opcode map's OP and the operand (R87). -/
def encode (i : Instr) : Command := commandOfFields i.mnemonic.opcode i.operand

/-- A command word as the five bytes of a byte-wide link (R68). -/
def bytesOfCommand (w : Command) : List Byte :=
  [w.extractLsb' 32 8, w.extractLsb' 24 8, w.extractLsb' 16 8, w.extractLsb' 8 8, w.extractLsb' 0 8]

/-- The command word whose bits spec/opcode_table.json numbers as `w`: a row there is the one number CMD[39:0], bit 0
its least significant bit; bits at and above `nbits` are zero. -/
def tableCommand (nbits w : Nat) : Command := BitVec.ofNat 40 (w % 2 ^ nbits)

/-- What the decoder reads from an opcode-table word. -/
def decodeTableWord (nbits w : Nat) : Option Instr :=
  match decodeCommand (tableCommand nbits w) with
  | .ok i => some i
  | .error _ => none

end Sys2Proof
end

