-- ==== Sys2Proof/Machine/Operands.lean ====
section
/-! DEFINITION. How the operand of an F1 command is read (spec/30_encoding.md R84, R85); F0 commands have none (R86). -/

namespace Sys2Proof.Machine

/-- A frequency operand: OPD as 32-bit two's complement, unit 1 Hz, neither scaled nor shifted (R84). -/
def signedOperand (opd : Word) : Int :=
  if opd.getLsbD 31 then (opd.toNat : Int) - 4294967296 else opd.toNat

/-- A tuning-word operand: OPD unsigned, with no extension (R85). -/
def unsignedOperand (opd : Word) : Word := opd

/-- A frequency register read as 32-bit two's complement (R21, R22, R38). -/
def frequencyOf (reg : Word) : Int := reg.toInt

end Sys2Proof.Machine
end

