-- ==== Sys2Proof/Config.lean ====
section
/-! DEFINITION. What the implementation fixes: the constants of spec/00_scope.md R6, the open parameters of R7 and D7
(opaque constants without a body: no proof can see a value of them), and the free values of the environment. -/

namespace Sys2Proof.Config

/-- F_REF, the DDS reference clock in Hz (R6). -/
def fRef : Int := 125000000
/-- F_FOLD = F_REF / 2 (R6). -/
def fFold : Int := 62500000
/-- F_MIN, the lower bound of a committed frequency (R6). -/
def fMin : Int := 0
/-- F_MAX, the upper bound of a committed frequency (R6). -/
def fMax : Int := 124999900
/-- FM_MIN_CARRIER (R6). -/
def fmMinCarrier : Int := 75000
/-- FM_PEAK, the peak FM excursion (R6). -/
def fmPeak : Int := 75000
/-- RAMP_STEPS, the steps of one sweep ramp (R6); TABLE_LEN = 32 is the length in the table types of State. -/
def rampSteps : Nat := 256
/-- CTRL_BYTE, the control byte of every frame (R6, R111). -/
def ctrlByte : Byte := 0x00
/-- FA_RESET (R6, R48). -/
def faReset : Word := 1000000
/-- FB_RESET (R6, R48). -/
def fbReset : Word := 9000000

/-- The FM offset table FM_OFFSET, left open by the source (R7, R39, D41, U9): entry i is `fmOffsetCode i - 75,000` Hz,
so that |FM_OFFSET[i]| ≤ 75,000 holds of every value this constant may have. Free value; log entry 3. -/
opaque fmOffsetCode : Fin 32 → Fin 150001

/-- The AM sample table AM_TABLE, left open by the source (R7, R39, D41, U10). Free value; log entry 3. -/
opaque amSample : Fin 32 → Byte

/-- The tuning word of a frequency outside [0, 125,000,000]: the source gives none (R102, U2), the block refuses such a
frequency, and only a state that no run reaches applies it. Free value; log entry 5. -/
opaque twOutside : Int → Word

/-- What the environment drives on RST at a step for which no script says it (R43). Free value; log entry 2. -/
opaque freeRst : Nat → Bool
/-- The same for CMD_VALID (R42). Free value; log entry 2. -/
opaque freeCmdValid : Nat → Bool
/-- The same for CMD[39:0] (R42). Free value; log entry 2. -/
opaque freeCmd : Nat → Command
/-- The same for KEY_HELD: a draw (R46, U16). Free value; log entry 2. -/
opaque freeKeyHeld : Nat → Bool
/-- The same for KEY_READY: a draw (R46, U16). Free value; log entry 2. -/
opaque freeKeyReady : Nat → Bool

/-- AMP_DUTY_MAP: the duty cycle of an AMP_DUTY sample, open (R7, R164, U11). -/
opaque ampDutyMap : Byte → Nat
/-- The amplitude channel's output while it is disabled, open (U11, N4). -/
opaque ampDisabledOutput : Nat
/-- T_FM, a lower bound in nanoseconds, open (R7, R245, U12). -/
opaque tFm : Nat
/-- T_AM, a lower bound in nanoseconds, open (R7, R245, U12). -/
opaque tAm : Nat
/-- T_STEP, a lower bound in nanoseconds, open (R7, R245, U12). -/
opaque tStep : Nat
/-- T_HOLD, a lower bound in nanoseconds, open (R7, R245, D40). -/
opaque tHold : Nat
/-- The duration of one frame in nanoseconds, not given by the source (R281, N7). -/
opaque tFrame : Nat
/-- WDT_TIMEOUT in nanoseconds, a platform value, open (R7, R246, U13). -/
opaque wdtTimeout : Nat
/-- WINDOW_BASE: where the register window sits in the host's word-address space, open (R65, D7, U20). -/
opaque windowBase : Nat

end Sys2Proof.Config
end

