-- ==== Sys2Proof/Machine/State.lean ====
section
/-! DEFINITION. The architectural state of RFGEN-DDS (spec/10_state.md), the environment's input levels, the reasons a
step can stop, and the state right after reset (R48). The block has no memory (R61), so State holds none. -/

namespace Sys2Proof.Machine

/-- The sequencer phase (R33). -/
inductive Phase where
  | idle | fmLoop | amLoop | sweepRamp | sweepEnd | releaseWait
deriving DecidableEq, Repr

/-- The completion codes of STATUS.ERR (R28); codes 6-15 never occur (R31), so they have no constructor. -/
inductive ErrCode where
  /-- 0 OK. -/
  | ok
  /-- 1 ERR_RANGE (R233). -/
  | range
  /-- 2 ERR_FM_LOW (R234). -/
  | fmLow
  /-- 3 ERR_DOMAIN (R235). -/
  | domain
  /-- 4 ERR_NOINIT (R236). -/
  | noInit
  /-- 5 ERR_ILLEGAL (R238). -/
  | illegal
deriving DecidableEq, Repr

/-- The event alphabet of the output trace (R45). -/
inductive Event where
  | d (v : Byte)
  | wclk (b : Bool)
  | fqud (b : Bool)
  | rstDds (b : Bool)
  | sync (b : Bool)
  | ampEn (b : Bool)
  | intDis (b : Bool)
  | duty (v : Byte)
  | wdt
  | flush
  | blockReset
deriving DecidableEq, Repr

/-- The output lines with level state (R40). -/
structure Lines where
  d        : Byte
  wClk     : Bool
  fqUd     : Bool
  ddsReset : Bool
  sync     : Bool
  ampEn    : Bool
  ampDuty  : Byte
  intDis   : Bool
deriving DecidableEq, Repr

/-- The levels the environment drives on the block's inputs for one step: RST (R43), the command port (R42) and the
keypad inputs (R46). -/
structure Inputs where
  rst      : Bool
  cmdValid : Bool
  cmd      : Command
  keyHeld  : Bool
  keyReady : Bool
deriving DecidableEq, Repr

/-- The environment, as the MODEL holds it (log entry 2): `pins` are the input levels the next step sees; `script` lists
what the environment will drive at the steps after that, next step first; where the script is empty the levels are the
free values of Config at `draws`, a counter of the steps taken. -/
structure Env where
  pins   : Inputs
  script : List Inputs
  draws  : Nat
deriving DecidableEq, Repr

/-- The whole machine: the state spec/10_state.md gives the block, its trace, and the environment. -/
structure State where
  /-- FA, signed Hz (R21). -/
  fa       : Word
  /-- FB, signed Hz (R22). -/
  fb       : Word
  /-- TW (R23). -/
  tw       : Word
  /-- DDS_WORD (R24). -/
  ddsWord  : Word
  /-- DDS_VALID (R24). -/
  ddsValid : Bool
  /-- The phase; STATUS.BUSY and STATUS.MODE are computed from it (R26, R27, R33). -/
  phase    : Phase
  /-- STATUS.ERR (R28). -/
  err      : ErrCode
  /-- STATUS.CHIP_INIT (R29). -/
  chipInit : Bool
  /-- IDX, the table indexer (R35). -/
  idx      : BitVec 5
  /-- FMTW[0..31] (R36). -/
  fmtw     : Vector Word 32
  /-- CTW (R37). -/
  ctw      : Word
  /-- SW_LOW, signed (R38). -/
  swLow    : Word
  /-- SW_SPAN, unsigned (R38). -/
  swSpan   : Word
  /-- SW_K, 9 bits (R38). -/
  swK      : BitVec 9
  /-- FM_OFFSET[0..31], signed Hz; constant (R39). -/
  fmOffset : Vector Word 32
  /-- AM_TABLE[0..31]; constant (R39). -/
  amTable  : Vector Byte 32
  /-- The output line levels (R40). -/
  lines    : Lines
  /-- The output trace, oldest event first (R45). -/
  trace    : List Event
  /-- The environment's inputs (R42, R43, R46). -/
  env      : Env
deriving DecidableEq, Repr

/-- The reasons a step can stop with a fault: none. No rule of the spec stops the machine: it has no traps (R231), every
error is a completion code after which the block is ready for the next command (R241, R242), and no hardware failure is
detected (R237). -/
inductive Fault where
deriving DecidableEq, Repr

/-- The reasons the model has no meaning for a command. -/
inductive Refusal where
  /-- Raised by an arm of exec whose command has no meaning yet; no arm is left that does so. Safe. -/
  | notModelled (mnemonic : String)
deriving DecidableEq, Repr

/-- Every output line at its reset level (R40, R48). -/
def Lines.reset : Lines where
  d := 0x00
  wClk := false
  fqUd := false
  ddsReset := false
  sync := false
  ampEn := false
  ampDuty := 0x00
  intDis := false

/-- No input asserted (DESIGN CHOICE: the environment's levels at reset, log entry 2). -/
def Inputs.quiet : Inputs where
  rst := false
  cmdValid := false
  cmd := 0
  keyHeld := false
  keyReady := false

/-- The machine right after the power-on block reset (R48, R261). FMTW is zero by the model's choice (log entry 1); the
constant tables are the open parameters of Config (log entry 3); the trace holds the BLOCK_RESET event (log entry 4). -/
def State.reset : State where
  fa := Config.faReset
  fb := Config.fbReset
  tw := 0
  ddsWord := 0
  ddsValid := false
  phase := .idle
  err := .ok
  chipInit := false
  idx := 0
  fmtw := Vector.replicate 32 0
  ctw := 0
  swLow := 0
  swSpan := 0
  swK := 0
  fmOffset := Vector.ofFn fun i => BitVec.ofInt 32 ((Config.fmOffsetCode i).val - Config.fmPeak)
  amTable := Vector.ofFn Config.amSample
  lines := Lines.reset
  trace := [.blockReset]
  env := ⟨Inputs.quiet, [], 0⟩

end Sys2Proof.Machine
end

