-- ==== Sys2Proof/Machine/Ops.lean ====
section
/-! DEFINITION. The named operations that the meanings share: events and line levels (spec/10_state.md R40, R45), ending
a command and raising an error (spec/60_exceptions.md R232: the block's whole exception model, R231), the tuning-word
generator and the frame sequencer (spec/41_synthesizer.md), table access, the ramp value, and block reset (R261). There
is no return from an exception to model: none exists and none is needed (R242). -/

namespace Sys2Proof.Machine

/-- The line levels after an event: an event of a level line sets it, a pulse sets none (R41), and after BLOCK_RESET
every line holds its reset level (R45). -/
def Lines.after (l : Lines) : Event → Lines
  | .d v => { l with d := v }
  | .wclk b => { l with wClk := b }
  | .fqud b => { l with fqUd := b }
  | .rstDds b => { l with ddsReset := b }
  | .sync b => { l with sync := b }
  | .ampEn b => { l with ampEn := b }
  | .intDis b => { l with intDis := b }
  | .duty v => { l with ampDuty := v }
  | .wdt => l
  | .flush => l
  | .blockReset => Lines.reset

/-- `emit E`: append E to the trace and set the level of its line (R11, R45). -/
def emit (e : Event) (s : State) : State :=
  { s with lines := s.lines.after e, trace := s.trace ++ [e] }

/-- Emit a list of events in order. -/
def emitAll (es : List Event) (s : State) : State := es.foldl (fun t e => emit e t) s

/-- `complete(code)`: the only effects are STATUS.ERR and the phase, from which BUSY and MODE follow (R11, R232). -/
def complete (code : ErrCode) (s : State) : State := { s with err := code, phase := .idle }

/-- `raise Error(code)`: complete(code) before any other effect of the command. It is the block's one exception entry:
no saved state, no mode change, no transfer of control (R11, R231, R232, R241). -/
def raiseError (code : ErrCode) (s : State) : State := complete code s

/-- inDomain(f): 0 ≤ f ≤ 125,000,000 (R102). -/
abbrev inDomain (f : Int) : Prop := 0 ≤ f ∧ f ≤ Config.fRef

/-- inCommitRange(f): the closed range [0, 124,999,900] of SET_FA and SET_FB (R215). -/
abbrev inCommitRange (f : Int) : Prop := Config.fMin ≤ f ∧ f ≤ Config.fMax

/-- The aliasing fold: f_eff of R101; it applies only above F_FOLD (R103). -/
def fold (f : Int) : Int := if f > Config.fFold then Config.fRef - f else f

/-- tw(f), the tuning-word generator (R101): floor(f_eff · 2^32 / 125,000,000), exact, the floor being `Int`'s division
by a positive number (R9). Outside the domain the source gives no value (R102): free, log entry 5. -/
def tuningWord (f : Int) : Word :=
  if inDomain f then BitVec.ofInt 32 (fold f * 4294967296 / Config.fRef) else Config.twOutside f

/-- One byte of the frame: driven on D, then one W_CLK pulse (R107). -/
def strobeByte (b : Byte) : List Event := [.d b, .wclk true, .wclk false]

/-- Events 1 to 15 of Frame(w): the control byte, then w most-significant byte first (R67, R107). -/
def frameBytes (w : Word) : List Event :=
  strobeByte Config.ctrlByte ++ strobeByte (w.extractLsb' 24 8) ++ strobeByte (w.extractLsb' 16 8) ++
    strobeByte (w.extractLsb' 8 8) ++ strobeByte (w.extractLsb' 0 8)

/-- Frame(w), the 18 events (R107): the bytes, the FQ_UD pulse, the bus left idle. -/
def frame (w : Word) : List Event := frameBytes w ++ [.fqud true, .fqud false, .d 0x00]

/-- The record the block makes at event 16 of a frame: DDS_WORD <- w, DDS_VALID <- 1 (R24, R107). -/
def recordFrame (w : Word) (s : State) : State := { s with ddsWord := w, ddsValid := true }

/-- `emit Frame(w)`: the 18 events in order, with the record made at the FQUD(1) event (R107, R108). -/
def sendFrame (w : Word) (s : State) : State :=
  emitAll [.fqud false, .d 0x00] (recordFrame w (emit (.fqud true) (emitAll (frameBytes w) s)))

/-- SetF(f) = Frame(tw(f)) (R109). -/
def setF (f : Int) (s : State) : State := sendFrame (tuningWord f) s

/-- T[i] of a 32-entry table at a 5-bit index (R10, R143). -/
def tableGet {α : Type} (t : Vector α 32) (i : BitVec 5) : α := t[i.toNat]'(by have := i.isLt; omega)

/-- IDX <- (IDX + 1) mod 32 (R35, R143): the addition of 5-bit words wraps. -/
def advanceIdx (s : State) : State := { s with idx := s.idx + 1 }

/-- ramp(k) = SW_LOW + floor(k · SW_SPAN / 256), exact (R183). -/
def rampValue (low span : Word) (k : Nat) : Int := frequencyOf low + ((k * span.toNat / Config.rampSteps : Nat) : Int)

/-- The Reset step (R261): every register, flag and line at its value of R48, BLOCK_RESET emitted. The constant tables
are not affected (R48), and the environment is not the block's. -/
def blockReset (s : State) : State :=
  { State.reset with
    fmOffset := s.fmOffset, amTable := s.amTable, trace := s.trace ++ [.blockReset], env := s.env }

end Sys2Proof.Machine
end

