-- ==== Sys2Proof/Machine/Control.lean ====
section
/-! DEFINITION. The control commands NOP, SET_FA and SET_FB (spec/44_control.md). -/

namespace Sys2Proof.Machine

/-- NOP (R211): complete(OK) and nothing else. -/
def execNop (s : State) : Host.Outcome State Fault Refusal := .next (complete .ok s)

/-- SET_FA f (R213). -/
def execSetFa (f : Word) (s : State) : Host.Outcome State Fault Refusal :=
  if inCommitRange (signedOperand f) then .next (complete .ok { s with fa := f })
  else .next (raiseError .range s)

/-- SET_FB f (R214). -/
def execSetFb (f : Word) (s : State) : Host.Outcome State Fault Refusal :=
  if inCommitRange (signedOperand f) then .next (complete .ok { s with fb := f })
  else .next (raiseError .range s)

end Sys2Proof.Machine
end

