-- ==== Sys2Proof/Machine/Modulation.lean ====
section
/-! DEFINITION. The modulation engine (spec/42_modulation.md): FM_RUN, AM_RUN, and the loop steps of FM_LOOP, AM_LOOP and
RELEASE_WAIT. The phase is the LUT multiplexer's selector (R142). -/

namespace Sys2Proof.Machine

/-- The FM sum c + FM_OFFSET[i], formed exactly (R144). -/
def fmSum (s : State) (i : Fin 32) : Int := frequencyOf s.fa + frequencyOf s.fmOffset[i]

/-- The FM tuning-word table: entry i is tw(c + FM_OFFSET[i]), each folding on its own (R144). -/
def fmTable (s : State) : Vector Word 32 := Vector.ofFn fun i => tuningWord (fmSum s i)

/-- FM_RUN (R151): ERR_NOINIT, ERR_FM_LOW, ERR_DOMAIN in this order (R239), each before any effect. -/
def execFmRun (s : State) : Host.Outcome State Fault Refusal :=
  if s.chipInit then
    if frequencyOf s.fa < Config.fmMinCarrier then .next (raiseError .fmLow s)
    else if ∀ i : Fin 32, inDomain (fmSum s i) then
      .next { emit (.intDis true) { s with fmtw := fmTable s, idx := 0 } with phase := .fmLoop }
    else .next (raiseError .domain s)
  else .next (raiseError .noInit s)

/-- AM_RUN (R161): no lower bound on the carrier. -/
def execAmRun (s : State) : Host.Outcome State Fault Refusal :=
  if s.chipInit then
    .next { emitAll [.ampEn true, .intDis true] { s with ctw := tuningWord (frequencyOf s.fa) } with
      idx := 0, phase := .amLoop }
  else .next (raiseError .noInit s)

/-- Run(h, _) in FM_LOOP (R152). -/
def runFmLoop (keyHeld : Bool) (s : State) : State :=
  let s := advanceIdx (emit .wdt (sendFrame (tableGet s.fmtw s.idx) s))
  if keyHeld then { emit (.intDis false) s with phase := .releaseWait } else s

/-- Run(h, _) in AM_LOOP (R162); AMP_DUTY keeps its last sample at the exit (R164). -/
def runAmLoop (keyHeld : Bool) (s : State) : State :=
  let s := advanceIdx (emitAll [.duty (tableGet s.amTable s.idx), .wdt] (sendFrame s.ctw s))
  if keyHeld then { emitAll [.ampEn false, .intDis false] s with phase := .releaseWait } else s

/-- Run(h, _) in RELEASE_WAIT (R171). -/
def runReleaseWait (keyHeld : Bool) (s : State) : State :=
  let s := emit .wdt s
  if keyHeld then s else complete .ok (emit .flush s)

end Sys2Proof.Machine
end

