-- ==== Sys2Proof/Machine/Sweep.lean ====
section
/-! DEFINITION. The sweep ramp generator (spec/43_sweep.md): SWEEP_RUN and the steps of SWEEP_RAMP and SWEEP_END. -/

namespace Sys2Proof.Machine

/-- Endpoint normalisation (R181): (lo, hi), swapped if FB < FA. -/
def sweepEndpoints (s : State) : Word × Word :=
  if frequencyOf s.fb < frequencyOf s.fa then (s.fb, s.fa) else (s.fa, s.fb)

/-- SWEEP_RUN (R181): no event in the issue step; FA and FB are not changed by the swap. -/
def execSweepRun (s : State) : Host.Outcome State Fault Refusal :=
  if s.chipInit then
    let ends := sweepEndpoints s
    .next { s with swLow := ends.1, swSpan := ends.2 - ends.1, swK := 0, phase := .sweepRamp }
  else .next (raiseError .noInit s)

/-- Run(_, _) in SWEEP_RAMP (R182): SYNC rises before the first frame of the ramp. -/
def runSweepRamp (s : State) : State :=
  let f := rampValue s.swLow s.swSpan s.swK.toNat
  let s := if s.swK = 0 then emit (.sync true) s else s
  let s := emit .wdt (setF f s)
  let s := { s with swK := s.swK + 1 }
  if s.swK.toNat = Config.rampSteps then { s with phase := .sweepEnd } else s

/-- Run(_, r) in SWEEP_END (R184). -/
def runSweepEnd (keyReady : Bool) (s : State) : State :=
  let s := emit .wdt (setF (frequencyOf s.swLow) (emit (.sync false) s))
  if keyReady then complete .ok (emit .flush s) else { s with swK := 0, phase := .sweepRamp }

end Sys2Proof.Machine
end

