-- ==== Sys2Proof/Machine/Synthesizer.lean ====
section
/-! DEFINITION. The synthesizer commands TUNE, PROGRAM, SET_FREQ and RESET_CHIP (spec/41_synthesizer.md). -/

namespace Sys2Proof.Machine

/-- TUNE f (R121): no event, no need of CHIP_INIT. -/
def execTune (f : Word) (s : State) : Host.Outcome State Fault Refusal :=
  if inDomain (signedOperand f) then .next (complete .ok { s with tw := tuningWord (signedOperand f) })
  else .next (raiseError .domain s)

/-- PROGRAM w (R123): any 32-bit word. -/
def execProgram (w : Word) (s : State) : Host.Outcome State Fault Refusal :=
  if s.chipInit then .next (complete .ok (sendFrame (unsignedOperand w) s))
  else .next (raiseError .noInit s)

/-- SET_FREQ f (R125): ERR_NOINIT before ERR_DOMAIN (R239); TW is not written. -/
def execSetFreq (f : Word) (s : State) : Host.Outcome State Fault Refusal :=
  if s.chipInit then
    if inDomain (signedOperand f) then .next (complete .ok (setF (signedOperand f) s))
    else .next (raiseError .domain s)
  else .next (raiseError .noInit s)

/-- The chip-reset sequence (R131). -/
def chipResetEvents : List Event := [.rstDds true, .rstDds false, .wclk false, .fqud false]

/-- RESET_CHIP (R131): D is not driven. -/
def execResetChip (s : State) : Host.Outcome State Fault Refusal :=
  .next (complete .ok
    { emitAll chipResetEvents s with ddsWord := 0, ddsValid := false, chipInit := true })

end Sys2Proof.Machine
end

