-- ==== Sys2Proof/Machine/Dispatch.lean ====
section
/-! DEFINITION. The issue step of each command (spec/30_encoding.md R83): one arm per constructor of Instr. -/

namespace Sys2Proof.Machine

def exec (i : Instr) (s : State) : Host.Outcome State Fault Refusal :=
  match i with
  | .nop => Sys2Proof.Machine.execNop s
  | .resetChip => Sys2Proof.Machine.execResetChip s
  | .setFa f => Sys2Proof.Machine.execSetFa f s
  | .setFb f => Sys2Proof.Machine.execSetFb f s
  | .tune f => Sys2Proof.Machine.execTune f s
  | .program w => Sys2Proof.Machine.execProgram w s
  | .setFreq f => Sys2Proof.Machine.execSetFreq f s
  | .fmRun => Sys2Proof.Machine.execFmRun s
  | .amRun => Sys2Proof.Machine.execAmRun s
  | .sweepRun => Sys2Proof.Machine.execSweepRun s

end Sys2Proof.Machine
end

