-- ==== Sys2Proof/Machine/Flags.lean ====
section
/-! DEFINITION. The STATUS register (spec/10_state.md R25 to R31), computed from the state it mirrors. The block has no
other flag and no condition code (R47). -/

namespace Sys2Proof.Machine

/-- The encoding of the phase in STATUS.MODE (R27). -/
def Phase.mode : Phase → BitVec 3
  | .idle => 0
  | .fmLoop => 1
  | .amLoop => 2
  | .sweepRamp => 3
  | .sweepEnd => 4
  | .releaseWait => 5

/-- The code of a completion in STATUS.ERR (R28). -/
def ErrCode.code : ErrCode → BitVec 4
  | .ok => 0
  | .range => 1
  | .fmLow => 2
  | .domain => 3
  | .noInit => 4
  | .illegal => 5

/-- CMD_READY = (phase = IDLE) (R42). -/
def State.cmdReady (s : State) : Bool := s.phase == .idle

/-- STATUS as a function of the fields it shows (R25): from bit 31 down, 19 reserved zeros (R31), INT_DIS, SYNC, AMP_EN,
DDS_VALID, CHIP_INIT, ERR, MODE, BUSY. -/
def statusOf (intDis sync ampEn ddsValid chipInit : Bool) (err : ErrCode) (phase : Phase) : Word :=
  (0#19 ++ BitVec.ofBool intDis ++ BitVec.ofBool sync ++ BitVec.ofBool ampEn ++ BitVec.ofBool ddsValid ++
    BitVec.ofBool chipInit ++ err.code ++ phase.mode ++ BitVec.ofBool (phase != .idle) : BitVec 32)

/-- The STATUS register: it has no state of its own (R30). -/
def State.status (s : State) : Word :=
  statusOf s.lines.intDis s.lines.sync s.lines.ampEn s.ddsValid s.chipInit s.err s.phase

end Sys2Proof.Machine
end

