-- ==== Sys2Proof/Machine/Sequencer.lean ====
section
/-! DEFINITION. The sequencer (spec/10_state.md R33, R34): the command handshake and the issue step (spec/30_encoding.md
R82, R83), the run step of each phase, the reset step, and the environment's input levels between steps. -/

namespace Sys2Proof.Machine

/-- The levels the environment drives where no script says them: free values at the step's number (log entry 2). -/
def freeInputs (n : Nat) : Inputs where
  rst := Config.freeRst n
  cmdValid := Config.freeCmdValid n
  cmd := Config.freeCmd n
  keyHeld := Config.freeKeyHeld n
  keyReady := Config.freeKeyReady n

/-- What the environment would drive next: the script's next entry, or free values. -/
def Env.sample (e : Env) : Inputs :=
  match e.script with
  | i :: _ => i
  | [] => freeInputs e.draws

/-- A command that is presented and not taken stays on the port: the host holds it (R42, R82). -/
def Inputs.holdCommand (presented next : Inputs) : Inputs :=
  if presented.cmdValid then { next with cmdValid := true, cmd := presented.cmd } else next

/-- The environment after a step. -/
def Env.advance (e : Env) : Env where
  pins := e.pins.holdCommand e.sample
  script := e.script.tail
  draws := e.draws + 1

/-- The step is over: the environment drives the levels of the next one. -/
def advanceInputs (s : State) : State := { s with env := s.env.advance }

/-- The handshake takes the presented command off the port (R42, R82). -/
def acceptCommand (s : State) : State :=
  { s with env := { s.env with pins := { s.env.pins with cmdValid := false } } }

/-- Issue(cmd) (R83): an ILLEGAL word raises ERR_ILLEGAL and has no other effect (R88, R89, R238). -/
def issueCommand (w : Command) (s : State) : Host.Outcome State Fault Refusal :=
  match decodeCommand w with
  | .ok i => exec i s
  | .error _ => .next (raiseError .illegal s)

/-- Run(h, r) (R34): one loop step of the current phase. Only these phases sample a keypad input, FM_LOOP, AM_LOOP and
RELEASE_WAIT the held level and SWEEP_END the queue level (R46). -/
def runPhase (keyHeld keyReady : Bool) (s : State) : State :=
  match s.phase with
  | .idle => s
  | .fmLoop => runFmLoop keyHeld s
  | .amLoop => runAmLoop keyHeld s
  | .sweepRamp => runSweepRamp s
  | .sweepEnd => runSweepEnd keyReady s
  | .releaseWait => runReleaseWait keyHeld s

/-- The environment advances after a block step that answers a next state. -/
def thenAdvance : Host.Outcome State Fault Refusal → Host.Outcome State Fault Refusal
  | .next s => .next (advanceInputs s)
  | .fault r => .fault r
  | .refused r => .refused r

/-- One step of the machine. RST preempts everything at a step boundary (R239, R261); in IDLE a presented command is
taken and issued, and with none presented the block waits; in any other phase the block runs one loop step and a
presented command is held (R34, R42, R82). -/
def sequencerStep (s : State) : Host.Outcome State Fault Refusal :=
  if s.env.pins.rst then .next (advanceInputs (blockReset s))
  else if s.cmdReady then
    if s.env.pins.cmdValid then thenAdvance (issueCommand s.env.pins.cmd (acceptCommand s))
    else .next (advanceInputs s)
  else .next (advanceInputs (runPhase s.env.pins.keyHeld s.env.pins.keyReady s))

/-- The state in which the very next step issues the command word `w`: presented on the port, RST low, the block ready. -/
def presentCommand (w : Command) (s : State) : State :=
  { s with
    phase := .idle
    env := { s.env with pins := { s.env.pins with rst := false, cmdValid := true, cmd := w } } }

end Sys2Proof.Machine
end

