-- ==== Sys2Proof/Machine/Step.lean ====
section
/-! DEFINITION. One step of the machine, and the placing of a command word where the next step takes it. -/

namespace Sys2Proof.Machine

/-- One step: the sequencer's (R34). -/
def step (s : State) : Host.Outcome State Fault Refusal := sequencerStep s

/-- `s` with the opcode-table word `w` presented on the command port, so that the next step issues it (log entry 7). -/
def State.withFetchWord (s : State) (nbits w : Nat) : State := presentCommand (tableCommand nbits w) s

end Sys2Proof.Machine
end

