-- ==== Sys2Proof/Machine/Assembler.lean ====
section
/-! DEFINITION. The assembler syntax and pseudo-instructions of spec/30_encoding.md R92 and R93, over lists of
characters. -/

namespace Sys2Proof.Machine

/-- Why the assembler refuses a statement (R92). -/
inductive AsmError where
  /-- The text is no statement of the syntax. -/
  | badSyntax
  /-- An immediate is missing, not allowed, or outside its range; it is never truncated. -/
  | immediateRefused
deriving DecidableEq, Repr

/-- trunc_32 of an immediate (R9, R92). -/
def immBits : Imm → Word
  | .dec n => BitVec.ofInt 32 n
  | .hex n => BitVec.ofNat 32 n

/-- The OPD field of an optional immediate: zero where there is none (R92). -/
def operandBits : Option Imm → Word
  | some imm => immBits imm
  | none => 0

/-- One command: {OP, trunc_32(imm)} when the immediate is in its format's range, else refused (R92). -/
def assembleCommand (m : Mnemonic) (imm : Option Imm) : Except AsmError Command :=
  if m.format.accepts imm then .ok (commandOfFields m.opcode (operandBits imm)) else .error .immediateRefused

/-- The literal expansion of the pseudo-instructions (R93). -/
def expand : Stmt → List (Mnemonic × Option Imm)
  | .command m imm => [(m, imm)]
  | .sweep lo hi => [(.setFa, some lo), (.setFb, some hi), (.sweepRun, none)]
  | .fm f => [(.setFa, some f), (.fmRun, none)]
  | .am f => [(.setFa, some f), (.amRun, none)]
  | .boot => [(.resetChip, none)]

/-- The words of a list of commands, or the first refusal. -/
def assembleAll : List (Mnemonic × Option Imm) → Except AsmError (List Command)
  | [] => .ok []
  | (m, imm) :: rest => do
    let w ← assembleCommand m imm
    let ws ← assembleAll rest
    return w :: ws

/-- The words of a statement. -/
def assemble (st : Stmt) : Except AsmError (List Command) := assembleAll (expand st)

/-- The spelling of the mnemonics (R87). -/
def mnemonicNames : List (List Char × Mnemonic) :=
  [("NOP".toList, .nop), ("RESET_CHIP".toList, .resetChip), ("SET_FA".toList, .setFa), ("SET_FB".toList, .setFb),
   ("TUNE".toList, .tune), ("PROGRAM".toList, .program), ("SET_FREQ".toList, .setFreq), ("FM_RUN".toList, .fmRun),
   ("AM_RUN".toList, .amRun), ("SWEEP_RUN".toList, .sweepRun)]

/-- The value of a hexadecimal digit. -/
def hexDigit (c : Char) : Option Nat :=
  if '0' ≤ c ∧ c ≤ '9' then some (c.toNat - 48)
  else if 'a' ≤ c ∧ c ≤ 'f' then some (c.toNat - 87)
  else if 'A' ≤ c ∧ c ≤ 'F' then some (c.toNat - 55)
  else none

/-- A digit string in a base of at most 16, `_` allowed as a separator (R92). Where a separator may stand the spec leaves
open (DESIGN CHOICE, log entry 13): anywhere after the first digit, several in a row and at the end included, never
before the first digit. -/
def readDigits (base : Nat) : Option Nat → List Char → Option Nat
  | acc, [] => acc
  | none, '_' :: _ => none
  | some n, '_' :: cs => readDigits base (some n) cs
  | acc, c :: cs =>
    match hexDigit c with
    | some v => if v < base then readDigits base (some (acc.getD 0 * base + v)) cs else none
    | none => none

/-- An immediate (R92): `0x` and hexadecimal digits, or decimal digits with an optional leading `-`. -/
def readImm : List Char → Option Imm
  | '0' :: 'x' :: cs => (readDigits 16 none cs).map .hex
  | '-' :: cs => (readDigits 10 none cs).map fun n => .dec (-n)
  | cs => (readDigits 10 none cs).map fun n => .dec n

/-- The words of a line: separated by blanks, a comma a word of its own; `;` starts a comment (R92). -/
def lineWords (cur : List Char) : List Char → List (List Char)
  | [] => if cur = [] then [] else [cur]
  | c :: cs =>
    if c = ';' then (if cur = [] then [] else [cur])
    else if c = ' ' ∨ c = '\t' ∨ c = '\r' then (if cur = [] then lineWords [] cs else cur :: lineWords [] cs)
    else if c = ',' then (if cur = [] then [','] :: lineWords [] cs else cur :: [','] :: lineWords [] cs)
    else lineWords (cur ++ [c]) cs

/-- The statement of a line's words (R92, R93). -/
def readStmt : List (List Char) → Except AsmError Stmt
  | [['B','O','O','T']] => .ok .boot
  | [['F','M'], f] => match readImm f with
    | some f => .ok (.fm f)
    | none => .error .badSyntax
  | [['A','M'], f] => match readImm f with
    | some f => .ok (.am f)
    | none => .error .badSyntax
  | [['S','W','E','E','P'], lo, [','], hi] => match readImm lo, readImm hi with
    | some lo, some hi => .ok (.sweep lo hi)
    | _, _ => .error .badSyntax
  | [m] => match mnemonicNames.lookup m with
    | some m => .ok (.command m none)
    | none => .error .badSyntax
  | [m, imm] => match mnemonicNames.lookup m, readImm imm with
    | some m, some imm => .ok (.command m (some imm))
    | _, _ => .error .badSyntax
  | _ => .error .badSyntax

/-- The words of one source line: none for a line that holds no statement. -/
def assembleLine (line : List Char) : Except AsmError (List Command) :=
  match lineWords [] line with
  | [] => .ok []
  | ws => do assemble (← readStmt ws)

end Sys2Proof.Machine
end

