-- ==== Sys2Proof/Machine/DdsChip.lean ====
section
/-! DEFINITION. The DDS chip as a separate agent driven by the trace (spec/10_state.md R44), in the informative reading of
spec/41_synthesizer.md R110. It is no state of the block: it is computed from the trace, and no meaning reads it. -/

namespace Sys2Proof.Machine

/-- A 40-bit register of the chip: its five bytes W0 to W4 (R110), each `none` where its value is unknown (U14). -/
structure ChipRegister where
  w0 : Option Byte
  w1 : Option Byte
  w2 : Option Byte
  w3 : Option Byte
  w4 : Option Byte
deriving DecidableEq, Repr

/-- The register with no byte known. -/
def ChipRegister.unknown : ChipRegister := ⟨none, none, none, none, none⟩

/-- The chip (R110): the levels of D, W_CLK and FQ_UD, the input register with the byte pointer into it (the number of
the next byte, 5 when all five are loaded), and the working registers. -/
structure Chip where
  bus     : Byte
  wClk    : Bool
  fqUd    : Bool
  pointer : Fin 6
  input   : ChipRegister
  working : ChipRegister
deriving DecidableEq, Repr

/-- D goes into the next of the five input bytes (R110). With all five loaded there is no next byte, and nothing is loaded
(PRESUMED, log entry 8). -/
def Chip.load (c : Chip) : Chip :=
  match c.pointer with
  | 0 => { c with pointer := 1, input := { c.input with w0 := some c.bus } }
  | 1 => { c with pointer := 2, input := { c.input with w1 := some c.bus } }
  | 2 => { c with pointer := 3, input := { c.input with w2 := some c.bus } }
  | 3 => { c with pointer := 4, input := { c.input with w3 := some c.bus } }
  | 4 => { c with pointer := 5, input := { c.input with w4 := some c.bus } }
  | 5 => c

/-- A FQ_UD rising edge: the whole input register goes into the working registers, and the byte pointer returns to W0
(R110). -/
def Chip.update (c : Chip) : Chip := { c with pointer := 0, working := c.input }

/-- DDS_RESET high: the pointer returns to W0 (R262), and what the chip holds is unknown (U14). -/
def Chip.reset (c : Chip) : Chip :=
  { c with pointer := 0, input := ChipRegister.unknown, working := ChipRegister.unknown }

/-- One trace event as the chip sees it (R110). A block reset puts the lines at their reset levels and does nothing else
to the chip (R262). -/
def Chip.see (c : Chip) : Event → Chip
  | .d v => { c with bus := v }
  | .wclk b => { (if b && !c.wClk then c.load else c) with wClk := b }
  | .fqud b => { (if b && !c.fqUd then c.update else c) with fqUd := b }
  | .rstDds b => if b then c.reset else c
  | .blockReset => { c with bus := 0x00, wClk := false, fqUd := false }
  | .sync _ | .ampEn _ | .intDis _ | .duty _ | .wdt | .flush => c

/-- The chip after a trace. -/
def Chip.seeAll (c : Chip) (es : List Event) : Chip := es.foldl Chip.see c

/-- The five bytes of a frame for a word: the control byte, then big-endian (R67). -/
def wordBytes (w : Word) : ChipRegister where
  w0 := some Config.ctrlByte
  w1 := some (w.extractLsb' 24 8)
  w2 := some (w.extractLsb' 16 8)
  w3 := some (w.extractLsb' 8 8)
  w4 := some (w.extractLsb' 0 8)

/-- The tuning word a register holds in W1 to W4, most-significant byte first, where all four are known (R67). -/
def ChipRegister.word (r : ChipRegister) : Option Word :=
  match r.w1, r.w2, r.w3, r.w4 with
  | some b3, some b2, some b1, some b0 => some (b3 ++ b2 ++ b1 ++ b0)
  | _, _, _, _ => none

/-- What a control byte selects (R110): the phase, the power state, the factory control bits. -/
structure ChipSettings where
  phase       : Nat
  poweredUp   : Bool
  factoryBits : Nat
deriving DecidableEq, Repr

/-- The settings of a control byte. The spec reads 0x00 only: phase 0, powered up, factory control bits 0 (R110); the
block sends no other (R111), and what another selects is unknown. -/
def settingsOf (control : Byte) : Option ChipSettings := if control = 0x00 then some ⟨0, true, 0⟩ else none

/-- The settings the chip works with, where they are known. -/
def Chip.settings (c : Chip) : Option ChipSettings := c.working.w0.bind settingsOf

/-- The output frequency in Hz for a tuning word, in the reading of R110. -/
def outputFrequency (w : Word) : Rat := (w.toNat : Rat) * 125000000 / 4294967296

/-- The frequency the chip emits, where what it works with is known and it is powered up (R110). -/
def Chip.output (c : Chip) : Option Rat :=
  match c.settings, c.working.word with
  | some st, some w => if st.poweredUp then some (outputFrequency w) else none
  | _, _ => none

end Sys2Proof.Machine
end

