-- ==== Sys2Proof/Machine/Window.lean ====
section
/-! DEFINITION. The host's register window (spec/20_memory.md R61 to R66): a read-only space of 16 words. -/

namespace Sys2Proof.Machine

/-- WinRead(a) (R62): a reserved address reads zero (R63). A read is a function of the state between two steps and
changes nothing (R64). -/
def winRead (a : BitVec 4) (s : State) : Word :=
  match a with
  | 0x0#4 => s.fa
  | 0x1#4 => s.fb
  | 0x2#4 => s.tw
  | 0x3#4 => s.ddsWord
  | 0x4#4 => s.status
  | _ => 0x00000000

/-- A host read at a word address of the host's own space, with the window at the open parameter WINDOW_BASE (D7, U20);
none outside the window, which is the platform's (R65). -/
def hostRead (addr : Nat) (s : State) : Option Word :=
  if Config.windowBase ≤ addr ∧ addr < Config.windowBase + 16 then
    some (winRead (BitVec.ofNat 4 (addr - Config.windowBase)) s)
  else none

end Sys2Proof.Machine
end

