-- ==== Sys2Proof/Safety.lean ====
section
/-! DEFINITION. What the statements and proofs about RFGEN-DDS mean by a safe state and a safe run: the invariants of
spec/10_state.md R49 and the ones beside it, the reset values of R48, and the terms that runs are described in. -/

namespace Sys2Proof.Safety

open Sys2Proof.Machine

/-- The invariants of R49, clause by clause. -/
structure Inv (s : State) : Prop where
  busy     : (winRead 0x4 s).getLsbD 0 = decide (s.phase ≠ .idle)
  mode     : (winRead 0x4 s).extractLsb' 1 3 = s.phase.mode
  intDis   : s.lines.intDis = decide (s.phase = .fmLoop ∨ s.phase = .amLoop)
  ampEn    : s.lines.ampEn = decide (s.phase = .amLoop)
  sync     : s.lines.sync = decide ((s.phase = .sweepRamp ∧ 1 ≤ s.swK.toNat) ∨ s.phase = .sweepEnd)
  strobes  : s.lines.wClk = false ∧ s.lines.fqUd = false ∧ s.lines.ddsReset = false
  bus      : s.lines.d = 0x00
  fa       : 0 ≤ s.fa.toInt ∧ s.fa.toInt ≤ 124999900
  fb       : 0 ≤ s.fb.toInt ∧ s.fb.toInt ≤ 124999900
  sweepK   : s.phase = .sweepRamp ∨ s.phase = .sweepEnd → s.swK.toNat ≤ 256 ∧ (s.swK.toNat = 256 → s.phase = .sweepEnd)
  sweepTop : s.phase = .sweepRamp ∨ s.phase = .sweepEnd → s.swLow.toInt + s.swSpan.toNat ≤ 124999900

/-- The chip-reset gate (R29, R271): the block is busy, or has a valid DDS record, only after a RESET_CHIP. -/
structure InitGate (s : State) : Prop where
  loops : s.phase ≠ .idle → s.chipInit = true
  valid : s.ddsValid = true → s.chipInit = true

/-- The tables of a running loop are those of FA as it stands (R36, R37, R278). -/
structure FreshTables (s : State) : Prop where
  fm : s.phase = .fmLoop → ∀ i : Fin 32, s.fmtw[i] = tuningWord (s.fa.toInt + s.fmOffset[i].toInt)
  am : s.phase = .amLoop → s.ctw = tuningWord s.fa.toInt

/-- While a sweep runs, its registers describe the interval between FA and FB (R38, R181). -/
structure SweepRegs (s : State) : Prop where
  low  : s.phase = .sweepRamp ∨ s.phase = .sweepEnd → s.swLow.toInt = min s.fa.toInt s.fb.toInt
  span : s.phase = .sweepRamp ∨ s.phase = .sweepEnd → (s.swSpan.toNat : Int) = |s.fb.toInt - s.fa.toInt|

/-- The constraint on the open FM offset table: |FM_OFFSET[i]| ≤ 75,000 (R7, R39). -/
def OffsetsBounded (s : State) : Prop := ∀ i : Fin 32, |s.fmOffset[i].toInt| ≤ 75000

/-- The level a line holds after a trace: its last emitted level, or its reset level since the last block reset (R40,
R45). `pick` gives the level an event sets on that line. -/
def heldLevel {α : Type} (pick : Event → Option α) (atReset : α) (trace : List Event) : α :=
  trace.foldl (fun level e => if e = .blockReset then atReset else (pick e).getD level) atReset

/-- Every line holds its last emitted level (R40). -/
structure LinesFollowTrace (s : State) : Prop where
  d        : s.lines.d = heldLevel (fun | .d v => some v | _ => none) 0x00 s.trace
  wClk     : s.lines.wClk = heldLevel (fun | .wclk b => some b | _ => none) false s.trace
  fqUd     : s.lines.fqUd = heldLevel (fun | .fqud b => some b | _ => none) false s.trace
  ddsReset : s.lines.ddsReset = heldLevel (fun | .rstDds b => some b | _ => none) false s.trace
  sync     : s.lines.sync = heldLevel (fun | .sync b => some b | _ => none) false s.trace
  ampEn    : s.lines.ampEn = heldLevel (fun | .ampEn b => some b | _ => none) false s.trace
  ampDuty  : s.lines.ampDuty = heldLevel (fun | .duty v => some v | _ => none) 0x00 s.trace
  intDis   : s.lines.intDis = heldLevel (fun | .intDis b => some b | _ => none) false s.trace

/-- The chip that has seen the block's whole trace, from any state `c` it powered up in, agrees with the block's record
of it: between steps it sees idle strobes; once chip-reset it holds no part of a frame; and while DDS_VALID is 1 its
working registers hold the control byte and DDS_WORD (R24, R67, in the informative reading of R110). -/
structure ChipAgrees (c : Chip) (s : State) : Prop where
  strobes : (c.seeAll s.trace).wClk = false ∧ (c.seeAll s.trace).fqUd = false
  whole   : s.chipInit = true → (c.seeAll s.trace).pointer = 0
  latched : s.ddsValid = true → s.chipInit = true ∧ (c.seeAll s.trace).working = wordBytes s.ddsWord

/-- The reset values of R48, but for FMTW, whose reset contents the spec leaves open, and the constant tables. -/
structure ResetValues (s : State) : Prop where
  fa       : s.fa = 1000000#32
  fb       : s.fb = 9000000#32
  tw       : s.tw = 0#32
  ddsWord  : s.ddsWord = 0#32
  ddsValid : s.ddsValid = false
  phase    : s.phase = .idle
  err      : s.err = .ok
  chipInit : s.chipInit = false
  idx      : s.idx = 0#5
  ctw      : s.ctw = 0#32
  swLow    : s.swLow = 0#32
  swSpan   : s.swSpan = 0#32
  swK      : s.swK = 0#9
  lines    : s.lines = ⟨0x00, false, false, false, false, false, 0x00, false⟩
  status   : winRead 0x4 s = 0x00000000#32

/-- The command the block takes at this step is `i`: IDLE, presented, decoded to it, and not preempted by RST (R42, R83,
R239). -/
structure Issues (s : State) (i : Instr) : Prop where
  rst     : s.env.pins.rst = false
  phase   : s.phase = .idle
  valid   : s.env.pins.cmdValid = true
  decoded : decodeCommand s.env.pins.cmd = .ok i

/-- `s` with other levels on the keypad inputs. -/
def withKeys (held ready : Bool) (s : State) : State :=
  { s with env := { s.env with pins := { s.env.pins with keyHeld := held, keyReady := ready } } }

/-- `s` with another command on the port, or none. -/
def withCommand (valid : Bool) (w : Command) (s : State) : State :=
  { s with env := { s.env with pins := { s.env.pins with cmdValid := valid, cmd := w } } }

/-- The environment's next `n` levels are scripted, and all of them satisfy `p`. -/
def Upcoming (n : Nat) (p : Inputs → Prop) (s : State) : Prop :=
  n ≤ s.env.script.length + 1 ∧ ∀ x ∈ (s.env.pins :: s.env.script).take n, p x

/-- The fixed-point accumulator in the integer form of R183: after `k` advances by span/256, the integer part and the
remainder carried in units of 1/256. -/
def rampAccumulator (span : Nat) : Nat → Nat × Nat
  | 0 => (0, 0)
  | k + 1 =>
    let acc := rampAccumulator span k
    let carried := acc.2 + span % 256
    (acc.1 + span / 256 + carried / 256, carried % 256)

/-- A safe run of `n` steps: no step stops, and it ends in a state of R49. -/
def SafeRun (n : Nat) (s : State) : Prop := ∃ t, Sys2Proof.core.run n s = .next t ∧ Inv t

end Sys2Proof.Safety
end

