-- ==== Sys2Proof/Certificates/Slice0/Obligations.lean ====
section
/-! DEFINITION. The statements about the model, each from a numbered rule of spec/ or derived from its sections.
A statement about exec is about the issue step of a command, which the spec enables only in IDLE (R34): that is its
premise `s.phase = .idle`. A statement about runPhase is about the run step of a phase; how a step of the machine calls
the two is StepTakesTheEnabledStep's and StepRunsTheDecodedCommand's. -/

open Sys2Proof Sys2Proof.Machine Sys2Proof.Safety

/-! ### Reset and the register window -/

/-- R48, R261: a block reset from any state leaves every register, flag and line at its value of R48 (FMTW, which R48
leaves unspecified, and the constant tables, which it does not affect, apart), and emits BLOCK_RESET. -/
def Obligations.BlockResetSetsEveryValue : Prop :=
  ∀ s : State, ResetValues (blockReset s) ∧ (blockReset s).cmdReady = true ∧
    (blockReset s).fmOffset = s.fmOffset ∧ (blockReset s).amTable = s.amTable ∧
    (blockReset s).trace = s.trace ++ [.blockReset]

/-- R48, R62 and the reset vectors VW1 to VW5: what the host reads right after reset. -/
def Obligations.StateAfterReset : Prop :=
  ResetValues State.reset ∧ winRead 0x0 State.reset = 0x000F4240 ∧ winRead 0x1 State.reset = 0x00895440 ∧
    winRead 0x2 State.reset = 0 ∧ winRead 0x3 State.reset = 0 ∧ winRead 0x4 State.reset = 0

/-- R62, R63: the window map, reserved addresses included. -/
def Obligations.WindowMap : Prop :=
  ∀ s : State, winRead 0x0 s = s.fa ∧ winRead 0x1 s = s.fb ∧ winRead 0x2 s = s.tw ∧ winRead 0x3 s = s.ddsWord ∧
    winRead 0x4 s = s.status ∧ ∀ a : BitVec 4, 5 ≤ a.toNat → winRead a s = 0x00000000

/-- R25, R26, R27, R28, R30, R31: every field of STATUS, the reserved bits zero. -/
def Obligations.StatusLayout : Prop :=
  ∀ s : State,
    (winRead 0x4 s).getLsbD 0 = decide (s.phase ≠ .idle) ∧
    (winRead 0x4 s).extractLsb' 1 3 =
      (match s.phase with
        | .idle => 0#3 | .fmLoop => 1#3 | .amLoop => 2#3 | .sweepRamp => 3#3 | .sweepEnd => 4#3 | .releaseWait => 5#3) ∧
    (winRead 0x4 s).extractLsb' 4 4 =
      (match s.err with
        | .ok => 0#4 | .range => 1#4 | .fmLow => 2#4 | .domain => 3#4 | .noInit => 4#4 | .illegal => 5#4) ∧
    (winRead 0x4 s).getLsbD 8 = s.chipInit ∧ (winRead 0x4 s).getLsbD 9 = s.ddsValid ∧
    (winRead 0x4 s).getLsbD 10 = s.lines.ampEn ∧ (winRead 0x4 s).getLsbD 11 = s.lines.sync ∧
    (winRead 0x4 s).getLsbD 12 = s.lines.intDis ∧ (winRead 0x4 s).extractLsb' 13 19 = 0#19

/-! ### Encoding -/

/-- R81, R87, R90: decoding an encoded command gives it back, every operand at every value; a word that decodes to a
command is that command's encoding, so no two words share one; and the five big-endian bytes of a word (R68) decode as
the word does. -/
def Obligations.DecodeInvertsEncode : Prop :=
  (∀ i : Instr, i.wf = true → decodeCommand (encode i) = .ok i) ∧
  (∀ (w : Command) (i : Instr), decodeCommand w = .ok i → w = encode i) ∧
  (∀ w : Command, decodeBytes (bytesOfCommand w) = decodeCommand w)

/-- R88, R89, R90: exactly the words with a reserved opcode, and the F0 words with a nonzero operand, decode to ILLEGAL;
a word decodes to a command exactly when its raw fields are well-formed. -/
def Obligations.DecoderRefusesExactlyIllegalWords : Prop :=
  ∀ w : Command,
    ((∃ e, decodeCommand w = .error e) ↔
      0x0A ≤ (opOf w).toNat ∨ ((opOf w) ∈ [0x00#8, 0x01#8, 0x07#8, 0x08#8, 0x09#8] ∧ opdOf w ≠ 0)) ∧
    ((∃ i, decodeCommand w = .ok i) ↔ RawCommand.wf ⟨opOf w, opdOf w⟩ = true)

/-- R87: words written out from the opcode map's bit patterns decode to their commands. -/
def Obligations.SampleWordsDecode : Prop :=
  decodeCommand 0b0000000000000000000000000000000000000000#40 = .ok .nop ∧
  decodeCommand 0b0000000100000000000000000000000000000000#40 = .ok .resetChip ∧
  decodeCommand 0b0000001000000111011100110101100011011100#40 = .ok (.setFa 124999900) ∧
  decodeCommand 0b0000010111111111111111111111111111111111#40 = .ok (.program 0xFFFFFFFF) ∧
  decodeCommand 0b0000011000000000100110001001011010000000#40 = .ok (.setFreq 10000000) ∧
  decodeCommand 0b0000011100000000000000000000000000000000#40 = .ok .fmRun ∧
  decodeCommand 0b0000100100000000000000000000000000000000#40 = .ok .sweepRun

/-- R84: the frequency operand is OPD - 2^32 when OPD[31] = 1, else OPD, which is its two's complement value. -/
def Obligations.FrequencyOperandIsTwosComplement : Prop :=
  ∀ opd : Word, signedOperand opd = opd.toInt ∧
    (opd.getLsbD 31 = true → signedOperand opd = (opd.toNat : Int) - 2 ^ 32) ∧
    (opd.getLsbD 31 = false → signedOperand opd = opd.toNat)

/-- R92, with log entry 13 for a hexadecimal immediate of more than 32 bits: a frequency command assembles exactly the
decimal immediates in [-2^31, 2^31 - 1], and PROGRAM exactly those in [0, 2^32 - 1], to a word that decodes to the
command with that value; a hexadecimal immediate below 2^32 gives the operand's bits directly, and a larger one is
refused. Nothing is truncated. -/
def Obligations.AssemblerRefusesOutOfRange : Prop :=
  (∀ p ∈ [(Mnemonic.setFa, Instr.setFa), (.setFb, .setFb), (.tune, .tune), (.setFreq, .setFreq)],
    (∀ n : Int, -2147483648 ≤ n → n ≤ 2147483647 → ∃ w f, assembleCommand p.1 (some (.dec n)) = .ok w ∧
      decodeCommand w = .ok (p.2 f) ∧ f.toInt = n) ∧
    (∀ n : Int, n < -2147483648 ∨ 2147483647 < n → assembleCommand p.1 (some (.dec n)) = .error .immediateRefused)) ∧
  (∀ n : Int, 0 ≤ n → n ≤ 4294967295 → ∃ w x, assembleCommand .program (some (.dec n)) = .ok w ∧
    decodeCommand w = .ok (.program x) ∧ (x.toNat : Int) = n) ∧
  (∀ n : Int, n < 0 ∨ 4294967295 < n → assembleCommand .program (some (.dec n)) = .error .immediateRefused) ∧
  (∀ p ∈ [(Mnemonic.setFa, Instr.setFa), (.setFb, .setFb), (.tune, .tune), (.setFreq, .setFreq), (.program, .program)],
    (∀ n : Nat, n < 4294967296 → ∃ w x, assembleCommand p.1 (some (.hex n)) = .ok w ∧
      decodeCommand w = .ok (p.2 x) ∧ x.toNat = n) ∧
    (∀ n : Nat, 4294967296 ≤ n → assembleCommand p.1 (some (.hex n)) = .error .immediateRefused))

/-! ### The tuning-word generator -/

/-- R101 with the bounds of R102: inside the domain the tuning word, as a number, is the floor formula itself, untruncated,
and at most 2^31. -/
def Obligations.TuningWordIsTheFloorFormula : Prop :=
  ∀ f : Int, 0 ≤ f → f ≤ 125000000 →
    ((tuningWord f).toNat : Int) = (if f > 62500000 then 125000000 - f else f) * 2 ^ 32 / 125000000 ∧
    (tuningWord f).toNat ≤ 2 ^ 31

/-- R103: the fold applies only strictly above 62,500,000. -/
def Obligations.FoldBoundary : Prop :=
  (∀ f : Int, f ≤ 62500000 → fold f = f) ∧ (∀ f : Int, 62500000 < f → fold f = 125000000 - f) ∧
    tuningWord 62500000 = 0x80000000 ∧ tuningWord 62500001 = 0x7FFFFFDD

/-- R104: on the direct range the tuning word is the unfolded formula and non-decreasing; above it, it falls; and, the
law of 95_test_vectors.md 2.1, it is 2^31 at f = 62,500,000 only. -/
def Obligations.TuningWordRisesThenFalls : Prop :=
  (∀ f : Int, 0 ≤ f → f ≤ 62500000 → ((tuningWord f).toNat : Int) = f * 2 ^ 32 / 125000000) ∧
  (∀ f g : Int, 0 ≤ f → f ≤ g → g ≤ 62500000 → (tuningWord f).toNat ≤ (tuningWord g).toNat) ∧
  (∀ f g : Int, 62500000 < f → f ≤ g → g ≤ 125000000 → (tuningWord g).toNat ≤ (tuningWord f).toNat) ∧
  (∀ f : Int, 0 ≤ f → f ≤ 125000000 → ((tuningWord f).toNat = 2 ^ 31 ↔ f = 62500000))

/-- R105: alias symmetry over the whole domain, and the notable points. -/
def Obligations.AliasSymmetry : Prop :=
  (∀ f : Int, 0 ≤ f → f ≤ 125000000 → tuningWord f = tuningWord (125000000 - f)) ∧
    tuningWord 125000000 = 0 ∧ tuningWord 0 = 0 ∧ tuningWord 124999900 = 3435 ∧ tuningWord 100 = 3435 ∧
    tuningWord 124999999 = 34 ∧ tuningWord 1 = 34

/-- From R101 and the informative output formula of R110: on the direct range the chip's output is at most the requested
frequency, and within one step of the tuning word of it. -/
def Obligations.OutputWithinOneStepOfRequest : Prop :=
  ∀ f : Int, 0 ≤ f → f ≤ 62500000 →
    outputFrequency (tuningWord f) ≤ f ∧ (f : Rat) < outputFrequency (tuningWord f) + 125000000 / 4294967296

/-! ### The frame sequencer and the chip -/

/-- R107, R108: Frame(w) emits its 18 events in order, records w with DDS_VALID, leaves the strobes low and the bus idle,
and writes no other register. -/
def Obligations.FrameEvents : Prop :=
  ∀ (w : Word) (s : State), sendFrame w s =
    { s with
      ddsWord := w, ddsValid := true
      lines := { s.lines with d := 0x00, wClk := false, fqUd := false }
      trace := s.trace ++
        [.d 0x00, .wclk true, .wclk false, .d (w.extractLsb' 24 8), .wclk true, .wclk false,
         .d (w.extractLsb' 16 8), .wclk true, .wclk false, .d (w.extractLsb' 8 8), .wclk true, .wclk false,
         .d (w.extractLsb' 0 8), .wclk true, .wclk false, .fqud true, .fqud false, .d 0x00] }

/-- R67 seen from the chip, in the informative reading of R110 (log entry 8): a chip between frames, with its strobes
idle, loads and latches the control byte 0x00 and the word most-significant byte first, and is between frames again; it
then works with phase 0, powered up, factory control bits 0, and emits the word's frequency; and another FQ_UD pulse
latches the same register. -/
def Obligations.ChipLatchesTheFrame : Prop :=
  ∀ (c : Chip) (w : Word), c.pointer = 0 → c.wClk = false → c.fqUd = false →
    c.seeAll (frame w) =
      { c with
        bus := 0x00
        input :=
          ⟨some 0x00, some (w.extractLsb' 24 8), some (w.extractLsb' 16 8), some (w.extractLsb' 8 8),
            some (w.extractLsb' 0 8)⟩
        working :=
          ⟨some 0x00, some (w.extractLsb' 24 8), some (w.extractLsb' 16 8), some (w.extractLsb' 8 8),
            some (w.extractLsb' 0 8)⟩ } ∧
    (c.seeAll (frame w)).working.word = some w ∧ (c.seeAll (frame w)).settings = some ⟨0, true, 0⟩ ∧
    (c.seeAll (frame w)).output = some ((w.toNat : Rat) * 125000000 / 2 ^ 32) ∧
    (c.seeAll (frame w)).seeAll [.fqud true, .fqud false] = c.seeAll (frame w)

/-- R24, R44 with the informative reading of R110: whatever state the chip powered up in, every step keeps the block's
record and the chip in agreement: no part of a frame is left in a chip that has been reset, and DDS_WORD, while DDS_VALID
is 1, is what the chip has latched. -/
def Obligations.StepKeepsChipAgreement : Prop :=
  ∀ (c : Chip) (s t : State), ChipAgrees c s → InitGate s → step s = .next t → ChipAgrees c t

/-! ### The commands -/

/-- R211: NOP, the word 0, writes OK to ERR and nothing else. -/
def Obligations.NopOnlyClearsErr : Prop :=
  decodeCommand 0x0000000000#40 = .ok .nop ∧ ∀ s : State, s.phase = .idle → exec .nop s = .next { s with err := .ok }

/-- R213, R233: SET_FA commits a value of [0, 124,999,900] and writes only FA and ERR; outside it, it writes only ERR. -/
def Obligations.SetFaCommitsOrRefuses : Prop :=
  (∀ f : Word, decodeCommand (0x02#8 ++ f) = .ok (.setFa f)) ∧ ∀ (s : State) (f : Word), s.phase = .idle →
    (0 ≤ f.toInt ∧ f.toInt ≤ 124999900 → exec (.setFa f) s = .next { s with fa := f, err := .ok }) ∧
    (f.toInt < 0 ∨ 124999900 < f.toInt → exec (.setFa f) s = .next { s with err := .range })

/-- R214, R233: the same for SET_FB and FB. -/
def Obligations.SetFbCommitsOrRefuses : Prop :=
  (∀ f : Word, decodeCommand (0x03#8 ++ f) = .ok (.setFb f)) ∧ ∀ (s : State) (f : Word), s.phase = .idle →
    (0 ≤ f.toInt ∧ f.toInt ≤ 124999900 → exec (.setFb f) s = .next { s with fb := f, err := .ok }) ∧
    (f.toInt < 0 ∨ 124999900 < f.toInt → exec (.setFb f) s = .next { s with err := .range })

/-- R121: TUNE writes tw(f) to TW, emits nothing and needs no chip reset; outside the domain it writes only ERR. -/
def Obligations.TuneWritesTw : Prop :=
  (∀ f : Word, decodeCommand (0x04#8 ++ f) = .ok (.tune f)) ∧ ∀ (s : State) (f : Word), s.phase = .idle →
    (0 ≤ f.toInt ∧ f.toInt ≤ 125000000 → exec (.tune f) s = .next { s with tw := tuningWord f.toInt, err := .ok }) ∧
    (f.toInt < 0 ∨ 125000000 < f.toInt → exec (.tune f) s = .next { s with err := .domain })

/-- R123: PROGRAM sends one frame of any word, and records it; before a chip reset it writes only ERR. -/
def Obligations.ProgramSendsOneFrame : Prop :=
  (∀ w : Word, decodeCommand (0x05#8 ++ w) = .ok (.program w)) ∧ ∀ (s : State) (w : Word), s.phase = .idle →
    (s.chipInit = true → exec (.program w) s = .next
      { s with
        ddsWord := w, ddsValid := true, err := .ok
        lines := { s.lines with d := 0x00, wClk := false, fqUd := false }
        trace := s.trace ++ frame w }) ∧
    (s.chipInit = false → exec (.program w) s = .next { s with err := .noInit })

/-- R125: SET_FREQ sends Frame(tw(f)) for any f of the domain and does not write TW; ERR_NOINIT comes before ERR_DOMAIN,
and either writes only ERR. -/
def Obligations.SetFreqSendsTunedFrame : Prop :=
  (∀ f : Word, decodeCommand (0x06#8 ++ f) = .ok (.setFreq f)) ∧ ∀ (s : State) (f : Word), s.phase = .idle →
    (s.chipInit = false → exec (.setFreq f) s = .next { s with err := .noInit }) ∧
    (s.chipInit = true → f.toInt < 0 ∨ 125000000 < f.toInt → exec (.setFreq f) s = .next { s with err := .domain }) ∧
    (s.chipInit = true → 0 ≤ f.toInt ∧ f.toInt ≤ 125000000 → exec (.setFreq f) s = .next
      { s with
        ddsWord := tuningWord f.toInt, ddsValid := true, err := .ok
        lines := { s.lines with d := 0x00, wClk := false, fqUd := false }
        trace := s.trace ++ frame (tuningWord f.toInt) })

/-- R131: RESET_CHIP pulses DDS_RESET, idles the strobes, clears the DDS record and sets CHIP_INIT, with no premise on
CHIP_INIT; issued again it gives the same state, with the events appended twice. -/
def Obligations.ResetChipEffect : Prop :=
  decodeCommand 0x0100000000#40 = .ok .resetChip ∧ ∀ s : State, s.phase = .idle →
    exec .resetChip s = .next
      { s with
        ddsWord := 0, ddsValid := false, chipInit := true, err := .ok
        lines := { s.lines with ddsReset := false, wClk := false, fqUd := false }
        trace := s.trace ++ [.rstDds true, .rstDds false, .wclk false, .fqud false] } ∧
    ∀ t u : State, exec .resetChip s = .next t → exec .resetChip t = .next u → { u with trace := t.trace } = t

/-- R151, R234: FM_RUN. The errors in their order, each with no effect but ERR; and, from a chip-reset block whose FA is
at least 75,000 and whose 32 sums lie in the domain, the table, IDX, the phase and INTDIS(1), ERR not written. -/
def Obligations.FmRunStarts : Prop :=
  decodeCommand 0x0700000000#40 = .ok .fmRun ∧ ∀ s : State, s.phase = .idle →
    (s.chipInit = false → exec .fmRun s = .next { s with err := .noInit }) ∧
    (s.chipInit = true → s.fa.toInt < 75000 → exec .fmRun s = .next { s with err := .fmLow }) ∧
    (s.chipInit = true → 75000 ≤ s.fa.toInt →
      (∃ i : Fin 32, s.fa.toInt + s.fmOffset[i].toInt < 0 ∨ 125000000 < s.fa.toInt + s.fmOffset[i].toInt) →
      exec .fmRun s = .next { s with err := .domain }) ∧
    (s.chipInit = true → 75000 ≤ s.fa.toInt →
      (∀ i : Fin 32, 0 ≤ s.fa.toInt + s.fmOffset[i].toInt ∧ s.fa.toInt + s.fmOffset[i].toInt ≤ 125000000) →
      exec .fmRun s = .next
        { s with
          fmtw := Vector.ofFn fun i => tuningWord (s.fa.toInt + s.fmOffset[i].toInt)
          idx := 0, phase := .fmLoop
          lines := { s.lines with intDis := true }
          trace := s.trace ++ [.intDis true] })

/-- R235 with the constraint of R39: for every FM table the spec admits, ERR_DOMAIN is impossible for FA up to
124,925,000: from 75,000 to there FM_RUN starts. -/
def Obligations.FmRunStartsBelowTheTopMargin : Prop :=
  ∀ s : State, OffsetsBounded s → s.phase = .idle → s.chipInit = true → 75000 ≤ s.fa.toInt → s.fa.toInt ≤ 124925000 →
    ∃ t, exec .fmRun s = .next t ∧ t.phase = .fmLoop ∧ t.err = s.err

/-- R161: AM_RUN's issue step: CTW, IDX, the phase, AMPEN(1) then INTDIS(1), with no bound on FA; before a chip reset it
writes only ERR. (In a state no run reaches, whose FA is outside the domain, tw(FA) is a free value: log entry 5.) -/
def Obligations.AmRunStarts : Prop :=
  decodeCommand 0x0800000000#40 = .ok .amRun ∧ ∀ s : State, s.phase = .idle →
    (s.chipInit = true → exec .amRun s = .next
      { s with
        ctw := tuningWord s.fa.toInt, idx := 0, phase := .amLoop
        lines := { s.lines with ampEn := true, intDis := true }
        trace := s.trace ++ [.ampEn true, .intDis true] }) ∧
    (s.chipInit = false → exec .amRun s = .next { s with err := .noInit })

/-- R181: SWEEP_RUN's issue step: the lower endpoint, the span |FB - FA|, step 0, no event; before a chip reset it writes
only ERR. -/
def Obligations.SweepRunStarts : Prop :=
  decodeCommand 0x0900000000#40 = .ok .sweepRun ∧ ∀ s : State, s.phase = .idle →
    (s.chipInit = true → exec .sweepRun s = .next
      { s with
        swLow := if s.fb.toInt < s.fa.toInt then s.fb else s.fa
        swSpan := BitVec.ofInt 32 |s.fb.toInt - s.fa.toInt|
        swK := 0, phase := .sweepRamp }) ∧
    (s.chipInit = false → exec .sweepRun s = .next { s with err := .noInit })

/-- R236: each command that writes the DDS bus, before a chip reset, completes with ERR_NOINIT and does nothing else. -/
def Obligations.NoInitStopsBusCommands : Prop :=
  ∀ (s : State) (f w : Word), s.phase = .idle → s.chipInit = false →
    ∀ i ∈ [Instr.program w, .setFreq f, .fmRun, .amRun, .sweepRun], exec i s = .next { s with err := .noInit }

/-- R88, R89, R238: a reserved opcode, or an F0 opcode with OPD ≠ 0, completes with ERR_ILLEGAL and changes nothing else. -/
def Obligations.IllegalWordOnlyWritesErr : Prop :=
  ∀ (s : State) (w : Command), s.phase = .idle →
    0x0A ≤ (opOf w).toNat ∨ (opOf w ∈ [0x00#8, 0x01#8, 0x07#8, 0x08#8, 0x09#8] ∧ opdOf w ≠ 0) →
    issueCommand w s = .next { s with err := .illegal }

/-- R232, R241: errors are precise. A command that completes in its issue step with an error code has written nothing but
that code. -/
def Obligations.ErrorsArePrecise : Prop :=
  ∀ (s t : State) (w : Command), s.phase = .idle → issueCommand w s = .next t → t.phase = .idle → t.err ≠ .ok →
    t = { s with err := t.err }

/-! ### The loop steps -/

/-- R152: one FM_LOOP step, which sends entry IDX of FMTW, for either level of KEY_HELD; KEY_READY does not matter and ERR is not written. -/
def Obligations.FmLoopStep : Prop :=
  ∀ (s : State) (h r : Bool), s.phase = .fmLoop →
    runPhase h r s =
      { s with
        ddsWord := s.fmtw[s.idx.toNat], ddsValid := true, idx := s.idx + 1
        phase := if h then .releaseWait else .fmLoop
        lines := { s.lines with d := 0x00, wClk := false, fqUd := false, intDis := if h then false else s.lines.intDis }
        trace := s.trace ++ frame s.fmtw[s.idx.toNat] ++ [.wdt] ++ if h then [.intDis false] else [] }

/-- R162: one AM_LOOP step for either level of KEY_HELD: the carrier frame, entry IDX of AM_TABLE, the
kick. -/
def Obligations.AmLoopStep : Prop :=
  ∀ (s : State) (h r : Bool), s.phase = .amLoop →
    runPhase h r s =
      { s with
        ddsWord := s.ctw, ddsValid := true, idx := s.idx + 1
        phase := if h then .releaseWait else .amLoop
        lines :=
          { s.lines with
            d := 0x00, wClk := false, fqUd := false, ampDuty := s.amTable[s.idx.toNat]
            ampEn := if h then false else s.lines.ampEn, intDis := if h then false else s.lines.intDis }
        trace := s.trace ++ frame s.ctw ++ [.duty s.amTable[s.idx.toNat], .wdt] ++
          if h then [.ampEn false, .intDis false] else [] }

/-- R171: one RELEASE_WAIT step: a kick; once KEY_HELD is sampled 0, a flush, and the command completes with OK. -/
def Obligations.ReleaseWaitStep : Prop :=
  ∀ (s : State) (r : Bool), s.phase = .releaseWait →
    runPhase true r s = { s with trace := s.trace ++ [.wdt] } ∧
    runPhase false r s = { s with trace := s.trace ++ [.wdt, .flush], err := .ok, phase := .idle }

/-- R182 with R183: one SWEEP_RAMP step at each k of the ramp: SYNC(1) before the first frame only, the frame of
tw(SW_LOW + floor(k · SW_SPAN / 256)), the kick, and SWEEP_END after step 255. -/
def Obligations.SweepRampStep : Prop :=
  ∀ (s : State) (h r : Bool), s.phase = .sweepRamp → s.swK.toNat ≤ 255 →
    runPhase h r s =
      { s with
        ddsWord := tuningWord (s.swLow.toInt + ((s.swK.toNat * s.swSpan.toNat / 256 : Nat) : Int)), ddsValid := true
        swK := BitVec.ofNat 9 (s.swK.toNat + 1)
        phase := if s.swK.toNat = 255 then .sweepEnd else .sweepRamp
        lines := { s.lines with d := 0x00, wClk := false, fqUd := false, sync := if s.swK = 0 then true else s.lines.sync }
        trace := s.trace ++ (if s.swK = 0 then [.sync true] else []) ++
          frame (tuningWord (s.swLow.toInt + ((s.swK.toNat * s.swSpan.toNat / 256 : Nat) : Int))) ++ [.wdt] }

/-- R184: one SWEEP_END step for either level of KEY_READY. -/
def Obligations.SweepEndStep : Prop :=
  ∀ (s : State) (h r : Bool), s.phase = .sweepEnd →
    runPhase h r s =
      { s with
        ddsWord := tuningWord s.swLow.toInt, ddsValid := true
        swK := if r then s.swK else 0
        phase := if r then .idle else .sweepRamp
        err := if r then .ok else s.err
        lines := { s.lines with d := 0x00, wClk := false, fqUd := false, sync := false }
        trace := s.trace ++ [.sync false] ++ frame (tuningWord s.swLow.toInt) ++ [.wdt] ++ if r then [.flush] else [] }

/-- R183, R185: the ramp is SW_LOW + floor(k · SW_SPAN / 256); it starts at SW_LOW, does not decrease, stays below the
high endpoint unless the span is 0, and is the value of the carried-remainder accumulator. -/
def Obligations.RampValues : Prop :=
  ∀ (low span : Word),
    (∀ k : Nat, rampValue low span k = low.toInt + ((k * span.toNat / 256 : Nat) : Int)) ∧
    rampValue low span 0 = low.toInt ∧
    (∀ j k : Nat, j ≤ k → rampValue low span j ≤ rampValue low span k) ∧
    (∀ k : Nat, k ≤ 255 → 0 < span.toNat → rampValue low span k < low.toInt + span.toNat) ∧
    (∀ k : Nat, rampValue low span k = low.toInt + (rampAccumulator span.toNat k).1)

/-- R109, R181: while a sweep runs in a state of the invariants, every frequency it applies tw to is in the domain. -/
def Obligations.SweepFrequenciesInDomain : Prop :=
  ∀ s : State, Inv s → SweepRegs s → s.phase = .sweepRamp ∨ s.phase = .sweepEnd →
    inDomain s.swLow.toInt ∧ ∀ k : Nat, k ≤ 256 → inDomain (rampValue s.swLow s.swSpan k)

/-! ### Runs of the loops -/

/-- R143, R153: while KEY_HELD is sampled 0 and no reset comes, n FM_LOOP steps from IDX = 0 send entries 0, 1, … mod 32,
each frame followed by one kick, stay in the loop and change no table. -/
def Obligations.FmRunWalksTheTable : Prop :=
  ∀ (n : Nat) (s : State), s.phase = .fmLoop → s.idx = 0 →
    Upcoming n (fun x => x.rst = false ∧ x.keyHeld = false) s →
    ∃ t, Sys2Proof.core.run n s = .next t ∧ t.phase = .fmLoop ∧ t.fmtw = s.fmtw ∧ t.idx.toNat = n % 32 ∧
      t.trace = s.trace ++ (List.range n).flatMap fun j => frame s.fmtw[j % 32] ++ [.wdt]

/-- R143, R163: the same for AM_LOOP: the carrier frame, then sample n mod 32; DDS_WORD is CTW from the first step on. -/
def Obligations.AmRunWalksTheTable : Prop :=
  ∀ (n : Nat) (s : State), s.phase = .amLoop → s.idx = 0 →
    Upcoming n (fun x => x.rst = false ∧ x.keyHeld = false) s →
    ∃ t, Sys2Proof.core.run n s = .next t ∧ t.phase = .amLoop ∧ t.ctw = s.ctw ∧ t.idx.toNat = n % 32 ∧
      (0 < n → t.ddsWord = s.ctw) ∧
      t.trace = s.trace ++ (List.range n).flatMap fun j =>
        frame s.ctw ++ [.duty s.amTable[j % 32], .wdt]

/-- R185: with no reset, a sweep at k = 0 takes exactly 257 steps to its poll: SYNC(1), the 256 ramp frames each with its
kick, SYNC(0), the low-endpoint frame and its kick; KEY_READY at the 257th step alone decides between completing with a
flush and ramping again. -/
def Obligations.SweepRampIs257Frames : Prop :=
  ∀ (s : State) (x : Inputs), s.phase = .sweepRamp → s.swK = 0 → Upcoming 257 (fun x => x.rst = false) s →
    (s.env.pins :: s.env.script)[256]? = some x →
    ∃ t, Sys2Proof.core.run 257 s = .next t ∧ t.phase = (if x.keyReady then .idle else .sweepRamp) ∧
      t.swLow = s.swLow ∧ t.swSpan = s.swSpan ∧ (x.keyReady = false → t.swK = 0) ∧ (x.keyReady = true → t.err = .ok) ∧
      t.trace = s.trace ++ [.sync true] ++
        ((List.range 256).flatMap fun k => frame (tuningWord (rampValue s.swLow s.swSpan k)) ++ [.wdt]) ++
        [.sync false] ++ frame (tuningWord s.swLow.toInt) ++ [.wdt] ++ if x.keyReady then [.flush] else []

/-! ### Steps of the whole machine -/

/-- R34, R82, R261: which step is enabled. RST gives the reset step in every state; in IDLE a presented command is taken
and issued; in every other phase the block runs one loop step on the sampled inputs. With no command in IDLE the block
waits: the model's choice for a step of the environment alone (log entry 2), like what the environment drives next. -/
def Obligations.StepTakesTheEnabledStep : Prop :=
  ∀ s : State,
    (s.env.pins.rst = true → step s = .next (advanceInputs (blockReset s))) ∧
    (s.env.pins.rst = false → s.phase = .idle → s.env.pins.cmdValid = false → step s = .next (advanceInputs s)) ∧
    (s.env.pins.rst = false → s.phase = .idle → s.env.pins.cmdValid = true →
      ∃ t, issueCommand s.env.pins.cmd (acceptCommand s) = .next t ∧ step s = .next (advanceInputs t)) ∧
    (s.env.pins.rst = false → s.phase ≠ .idle →
      step s = .next (advanceInputs (runPhase s.env.pins.keyHeld s.env.pins.keyReady s)))

/-- R83: when the presented word decodes to a command and the block can take it, the step is that command's issue step
on the state with the command taken off the port, after which the environment (the model's own, log entry 2) drives its
next levels; and presenting a word with withFetchWord is enough for that. -/
def Obligations.StepRunsTheDecodedCommand : Prop :=
  (∀ (s : State) (i : Instr), Issues s i →
    ∃ t, exec i (acceptCommand s) = .next t ∧ step s = .next (advanceInputs t)) ∧
  (∀ (s : State) (i : Instr) (w : Nat), decodeTableWord 40 w = some i → Issues (s.withFetchWord 40 w) i)

/-- The model's environment (log entry 2): a step leaves the block's own state as its rule says and then drives the
script's next levels, or free ones; a command presented and not taken stays presented (R82). -/
def Obligations.EnvironmentAfterAStep : Prop :=
  ∀ (s : State) (x : Inputs), x = s.env.script.headD (freeInputs s.env.draws) →
    { advanceInputs s with env := s.env } = s ∧
    (advanceInputs s).env.script = s.env.script.tail ∧
    (advanceInputs s).env.pins.rst = x.rst ∧ (advanceInputs s).env.pins.keyHeld = x.keyHeld ∧
    (advanceInputs s).env.pins.keyReady = x.keyReady ∧
    (s.env.pins.cmdValid = false → (advanceInputs s).env.pins = x) ∧
    (s.env.pins.cmdValid = true →
      (advanceInputs s).env.pins.cmdValid = true ∧ (advanceInputs s).env.pins.cmd = s.env.pins.cmd)

/-- R82, R273: while BUSY, a presented command is held, not lost and not executed: it is still presented after the step,
and the block's state does not depend on it. -/
def Obligations.BusyBlockHoldsTheCommand : Prop :=
  ∀ (s : State) (v : Bool) (w : Command), s.phase ≠ .idle → s.env.pins.rst = false →
    ∃ t u, step s = .next t ∧ step (withCommand v w s) = .next u ∧ { u with env := t.env } = t ∧
      (v = true → u.env.pins.cmdValid = true ∧ u.env.pins.cmd = w)

/-- R46: no step depends on a keypad input it does not sample: IDLE and SWEEP_RAMP sample neither, FM_LOOP, AM_LOOP and
RELEASE_WAIT only KEY_HELD, SWEEP_END only KEY_READY. -/
def Obligations.OnlyTheNamedPhasesSampleKeys : Prop :=
  ∀ (s : State) (h r h' r' : Bool),
    (s.phase = .idle ∨ s.phase = .sweepRamp → step (withKeys h r s) = step (withKeys h' r' s)) ∧
    (s.phase = .fmLoop ∨ s.phase = .amLoop ∨ s.phase = .releaseWait →
      step (withKeys h r s) = step (withKeys h r' s)) ∧
    (s.phase = .sweepEnd → step (withKeys h r s) = step (withKeys h' r s))

/-- R21, R22, R23, R24, R29, R32: the writers of the registers. A step that is no reset changes FA, FB, TW or CHIP_INIT
only by issuing SET_FA, SET_FB, TUNE or RESET_CHIP, and DDS_WORD or DDS_VALID only by issuing a command that sends a
frame or resets the chip, or in a phase that sends frames. -/
def Obligations.OnlyTheNamedCommandsWrite : Prop :=
  ∀ s t : State, step s = .next t → s.env.pins.rst = false →
    (t.fa ≠ s.fa → ∃ f, Issues s (.setFa f)) ∧
    (t.fb ≠ s.fb → ∃ f, Issues s (.setFb f)) ∧
    (t.tw ≠ s.tw → ∃ f, Issues s (.tune f)) ∧
    (t.chipInit ≠ s.chipInit → Issues s .resetChip) ∧
    (t.ddsWord ≠ s.ddsWord ∨ t.ddsValid ≠ s.ddsValid →
      Issues s .resetChip ∨ (∃ w, Issues s (.program w)) ∨ (∃ f, Issues s (.setFreq f)) ∨
      s.phase ∈ [.fmLoop, .amLoop, .sweepRamp, .sweepEnd])

/-- R39: no step, the reset step included, changes a constant table. -/
def Obligations.NoStepWritesTheTables : Prop :=
  ∀ s t : State, step s = .next t → t.fmOffset = s.fmOffset ∧ t.amTable = s.amTable

/-- R33, R221: the only moves of the phase, with the draw that decides each. -/
def Obligations.PhaseMoves : Prop :=
  ∀ s t : State, step s = .next t → s.env.pins.rst = false → t.phase ≠ s.phase →
    (Issues s .fmRun ∧ t.phase = .fmLoop) ∨ (Issues s .amRun ∧ t.phase = .amLoop) ∨
    (Issues s .sweepRun ∧ t.phase = .sweepRamp) ∨
    ((s.phase = .fmLoop ∨ s.phase = .amLoop) ∧ t.phase = .releaseWait ∧ s.env.pins.keyHeld = true) ∨
    (s.phase = .releaseWait ∧ t.phase = .idle ∧ s.env.pins.keyHeld = false) ∨
    (s.phase = .sweepRamp ∧ t.phase = .sweepEnd) ∨
    (s.phase = .sweepEnd ∧ t.phase = .sweepRamp ∧ s.env.pins.keyReady = false) ∨
    (s.phase = .sweepEnd ∧ t.phase = .idle ∧ s.env.pins.keyReady = true)

/-- R28, R232: ERR is written at completion only, and a loop command that completes has completed with OK. -/
def Obligations.ErrIsWrittenAtCompletion : Prop :=
  ∀ s t : State, step s = .next t → s.env.pins.rst = false →
    (t.phase ≠ .idle → t.err = s.err) ∧ (s.phase ≠ .idle → t.phase = .idle → t.err = .ok)

/-- R45, R246: a step only appends to the trace, and what a step that is no reset appends holds exactly one watchdog kick
in a blocking loop, none in an issue step or while waiting. -/
def Obligations.OneKickPerLoopStep : Prop :=
  ∀ s t : State, step s = .next t → ∃ events, t.trace = s.trace ++ events ∧
    (s.env.pins.rst = false → events.count .wdt = if s.phase = .idle then 0 else 1)

/-- R271: a block that no RESET_CHIP has initialised never strobes the DDS. -/
def Obligations.NoStrobeBeforeChipReset : Prop :=
  ∀ s t : State, InitGate s → s.chipInit = false → step s = .next t →
    ∃ events, t.trace = s.trace ++ events ∧ ∀ e ∈ events, e ≠ .wclk true ∧ e ≠ .fqud true

/-- Every step of every state answers a next state. That no state stops the machine is the model's reading (log entry 15,
DEDUCED from R231, R237 and R241), and that there is a step in IDLE with no command presented is the model's choice
(log entry 2: R34 enables no step of the block there). -/
def Obligations.EveryStepAnswersNext : Prop := ∀ s : State, ∃ t, step s = .next t

/-! ### Invariants -/

/-- R49: every step keeps the invariants. -/
def Obligations.StepKeepsInv : Prop := ∀ s t : State, Inv s → step s = .next t → Inv t

/-- R49 and the other invariants of Safety.lean hold right after reset: the chip's agreement for every state the chip
powered up in, the bound of R39 on the open FM table whatever it is, and (log entry 4: the model's trace starts with
the power-on BLOCK_RESET) every line at its last emitted level. -/
def Obligations.InvariantsAtReset : Prop :=
  Inv State.reset ∧ InitGate State.reset ∧ FreshTables State.reset ∧ SweepRegs State.reset ∧
    LinesFollowTrace State.reset ∧ OffsetsBounded State.reset ∧ ∀ c : Chip, ChipAgrees c State.reset

/-- From R49: a run of any length from a state of the invariants stops nowhere and ends in a state of them. That nothing
stops the machine is the model's reading (log entry 15, DEDUCED), and a run counts the waiting steps that the model
takes in IDLE with no command presented (log entry 2, DESIGN CHOICE). -/
def Obligations.EveryRunIsSafe : Prop := ∀ (n : Nat) (s : State), Inv s → SafeRun n s

/-- From R29, R36, R37, R38, R181, R278: every step keeps the chip-reset gate, the tables of a running loop those of FA
as it stands, and the sweep registers those of the interval between FA and FB. -/
def Obligations.StepKeepsLoopInvariants : Prop :=
  ∀ s t : State, step s = .next t →
    (InitGate s → InitGate t) ∧ (FreshTables s → FreshTables t) ∧ (SweepRegs s → SweepRegs t)

/-- R40, R45: every step keeps each line at its last emitted level. -/
def Obligations.StepKeepsLinesFollowTrace : Prop :=
  ∀ s t : State, LinesFollowTrace s → step s = .next t → LinesFollowTrace t
end

