-- ==== Sys2Proof/Laws/DdsChip.lean ====
section
/-! SUPPORT. The chip's way through a list of events, and what it reads in the bytes of a word. -/

namespace Sys2Proof.Machine

@[simp] theorem Chip.seeAll_nil (c : Chip) : c.seeAll [] = c := rfl

@[simp] theorem Chip.seeAll_cons (c : Chip) (e : Event) (es : List Event) :
    c.seeAll (e :: es) = (c.see e).seeAll es := rfl

theorem Chip.seeAll_append (c : Chip) (es fs : List Event) : c.seeAll (es ++ fs) = (c.seeAll es).seeAll fs :=
  List.foldl_append

/-- Four bytes of a word, most significant first, are the word (R67). -/
@[simp] theorem word_wordBytes (w : Word) : (wordBytes w).word = some w := by
  show some (w.extractLsb' 24 8 ++ w.extractLsb' 16 8 ++ w.extractLsb' 8 8 ++ w.extractLsb' 0 8 : BitVec 32) = some w
  congr 1
  apply BitVec.eq_of_getLsbD_eq
  intro i hi
  simp only [BitVec.getLsbD_append, BitVec.getLsbD_extractLsb']
  interval_cases i <;> simp

/-- The control byte of every frame selects phase 0, powered up, factory control bits 0 (R110, R111). -/
theorem settingsOf_ctrlByte : settingsOf Config.ctrlByte = some ⟨0, true, 0⟩ := by decide

end Sys2Proof.Machine
end

