-- ==== Sys2Proof/Laws/State.lean ====
section
/-! SUPPORT. One lemma per field of State for each shared update (emit, complete, recordFrame, advanceIdx,
blockReset, acceptCommand, advanceInputs): what the update leaves in that field. -/

namespace Sys2Proof.Machine

section
variable (e : Event) (s : State)

@[simp] theorem emit_fa : (emit e s).fa = s.fa := rfl
@[simp] theorem emit_fb : (emit e s).fb = s.fb := rfl
@[simp] theorem emit_tw : (emit e s).tw = s.tw := rfl
@[simp] theorem emit_ddsWord : (emit e s).ddsWord = s.ddsWord := rfl
@[simp] theorem emit_ddsValid : (emit e s).ddsValid = s.ddsValid := rfl
@[simp] theorem emit_phase : (emit e s).phase = s.phase := rfl
@[simp] theorem emit_err : (emit e s).err = s.err := rfl
@[simp] theorem emit_chipInit : (emit e s).chipInit = s.chipInit := rfl
@[simp] theorem emit_idx : (emit e s).idx = s.idx := rfl
@[simp] theorem emit_fmtw : (emit e s).fmtw = s.fmtw := rfl
@[simp] theorem emit_ctw : (emit e s).ctw = s.ctw := rfl
@[simp] theorem emit_swLow : (emit e s).swLow = s.swLow := rfl
@[simp] theorem emit_swSpan : (emit e s).swSpan = s.swSpan := rfl
@[simp] theorem emit_swK : (emit e s).swK = s.swK := rfl
@[simp] theorem emit_fmOffset : (emit e s).fmOffset = s.fmOffset := rfl
@[simp] theorem emit_amTable : (emit e s).amTable = s.amTable := rfl
@[simp] theorem emit_lines : (emit e s).lines = s.lines.after e := rfl
@[simp] theorem emit_trace : (emit e s).trace = s.trace ++ [e] := rfl
@[simp] theorem emit_env : (emit e s).env = s.env := rfl
end

section
variable (c : ErrCode) (s : State)

@[simp] theorem complete_fa : (complete c s).fa = s.fa := rfl
@[simp] theorem complete_fb : (complete c s).fb = s.fb := rfl
@[simp] theorem complete_tw : (complete c s).tw = s.tw := rfl
@[simp] theorem complete_ddsWord : (complete c s).ddsWord = s.ddsWord := rfl
@[simp] theorem complete_ddsValid : (complete c s).ddsValid = s.ddsValid := rfl
@[simp] theorem complete_phase : (complete c s).phase = .idle := rfl
@[simp] theorem complete_err : (complete c s).err = c := rfl
@[simp] theorem complete_chipInit : (complete c s).chipInit = s.chipInit := rfl
@[simp] theorem complete_idx : (complete c s).idx = s.idx := rfl
@[simp] theorem complete_fmtw : (complete c s).fmtw = s.fmtw := rfl
@[simp] theorem complete_ctw : (complete c s).ctw = s.ctw := rfl
@[simp] theorem complete_swLow : (complete c s).swLow = s.swLow := rfl
@[simp] theorem complete_swSpan : (complete c s).swSpan = s.swSpan := rfl
@[simp] theorem complete_swK : (complete c s).swK = s.swK := rfl
@[simp] theorem complete_fmOffset : (complete c s).fmOffset = s.fmOffset := rfl
@[simp] theorem complete_amTable : (complete c s).amTable = s.amTable := rfl
@[simp] theorem complete_lines : (complete c s).lines = s.lines := rfl
@[simp] theorem complete_trace : (complete c s).trace = s.trace := rfl
@[simp] theorem complete_env : (complete c s).env = s.env := rfl
end

section
variable (w : Word) (s : State)

@[simp] theorem recordFrame_fa : (recordFrame w s).fa = s.fa := rfl
@[simp] theorem recordFrame_fb : (recordFrame w s).fb = s.fb := rfl
@[simp] theorem recordFrame_tw : (recordFrame w s).tw = s.tw := rfl
@[simp] theorem recordFrame_ddsWord : (recordFrame w s).ddsWord = w := rfl
@[simp] theorem recordFrame_ddsValid : (recordFrame w s).ddsValid = true := rfl
@[simp] theorem recordFrame_phase : (recordFrame w s).phase = s.phase := rfl
@[simp] theorem recordFrame_err : (recordFrame w s).err = s.err := rfl
@[simp] theorem recordFrame_chipInit : (recordFrame w s).chipInit = s.chipInit := rfl
@[simp] theorem recordFrame_idx : (recordFrame w s).idx = s.idx := rfl
@[simp] theorem recordFrame_fmtw : (recordFrame w s).fmtw = s.fmtw := rfl
@[simp] theorem recordFrame_ctw : (recordFrame w s).ctw = s.ctw := rfl
@[simp] theorem recordFrame_swLow : (recordFrame w s).swLow = s.swLow := rfl
@[simp] theorem recordFrame_swSpan : (recordFrame w s).swSpan = s.swSpan := rfl
@[simp] theorem recordFrame_swK : (recordFrame w s).swK = s.swK := rfl
@[simp] theorem recordFrame_fmOffset : (recordFrame w s).fmOffset = s.fmOffset := rfl
@[simp] theorem recordFrame_amTable : (recordFrame w s).amTable = s.amTable := rfl
@[simp] theorem recordFrame_lines : (recordFrame w s).lines = s.lines := rfl
@[simp] theorem recordFrame_trace : (recordFrame w s).trace = s.trace := rfl
@[simp] theorem recordFrame_env : (recordFrame w s).env = s.env := rfl
end

section
variable (s : State)

@[simp] theorem advanceIdx_fa : (advanceIdx s).fa = s.fa := rfl
@[simp] theorem advanceIdx_fb : (advanceIdx s).fb = s.fb := rfl
@[simp] theorem advanceIdx_tw : (advanceIdx s).tw = s.tw := rfl
@[simp] theorem advanceIdx_ddsWord : (advanceIdx s).ddsWord = s.ddsWord := rfl
@[simp] theorem advanceIdx_ddsValid : (advanceIdx s).ddsValid = s.ddsValid := rfl
@[simp] theorem advanceIdx_phase : (advanceIdx s).phase = s.phase := rfl
@[simp] theorem advanceIdx_err : (advanceIdx s).err = s.err := rfl
@[simp] theorem advanceIdx_chipInit : (advanceIdx s).chipInit = s.chipInit := rfl
@[simp] theorem advanceIdx_idx : (advanceIdx s).idx = s.idx + 1 := rfl
@[simp] theorem advanceIdx_fmtw : (advanceIdx s).fmtw = s.fmtw := rfl
@[simp] theorem advanceIdx_ctw : (advanceIdx s).ctw = s.ctw := rfl
@[simp] theorem advanceIdx_swLow : (advanceIdx s).swLow = s.swLow := rfl
@[simp] theorem advanceIdx_swSpan : (advanceIdx s).swSpan = s.swSpan := rfl
@[simp] theorem advanceIdx_swK : (advanceIdx s).swK = s.swK := rfl
@[simp] theorem advanceIdx_fmOffset : (advanceIdx s).fmOffset = s.fmOffset := rfl
@[simp] theorem advanceIdx_amTable : (advanceIdx s).amTable = s.amTable := rfl
@[simp] theorem advanceIdx_lines : (advanceIdx s).lines = s.lines := rfl
@[simp] theorem advanceIdx_trace : (advanceIdx s).trace = s.trace := rfl
@[simp] theorem advanceIdx_env : (advanceIdx s).env = s.env := rfl
end

section
variable (s : State)

@[simp] theorem acceptCommand_fa : (acceptCommand s).fa = s.fa := rfl
@[simp] theorem acceptCommand_fb : (acceptCommand s).fb = s.fb := rfl
@[simp] theorem acceptCommand_tw : (acceptCommand s).tw = s.tw := rfl
@[simp] theorem acceptCommand_ddsWord : (acceptCommand s).ddsWord = s.ddsWord := rfl
@[simp] theorem acceptCommand_ddsValid : (acceptCommand s).ddsValid = s.ddsValid := rfl
@[simp] theorem acceptCommand_phase : (acceptCommand s).phase = s.phase := rfl
@[simp] theorem acceptCommand_err : (acceptCommand s).err = s.err := rfl
@[simp] theorem acceptCommand_chipInit : (acceptCommand s).chipInit = s.chipInit := rfl
@[simp] theorem acceptCommand_idx : (acceptCommand s).idx = s.idx := rfl
@[simp] theorem acceptCommand_fmtw : (acceptCommand s).fmtw = s.fmtw := rfl
@[simp] theorem acceptCommand_ctw : (acceptCommand s).ctw = s.ctw := rfl
@[simp] theorem acceptCommand_swLow : (acceptCommand s).swLow = s.swLow := rfl
@[simp] theorem acceptCommand_swSpan : (acceptCommand s).swSpan = s.swSpan := rfl
@[simp] theorem acceptCommand_swK : (acceptCommand s).swK = s.swK := rfl
@[simp] theorem acceptCommand_fmOffset : (acceptCommand s).fmOffset = s.fmOffset := rfl
@[simp] theorem acceptCommand_amTable : (acceptCommand s).amTable = s.amTable := rfl
@[simp] theorem acceptCommand_lines : (acceptCommand s).lines = s.lines := rfl
@[simp] theorem acceptCommand_trace : (acceptCommand s).trace = s.trace := rfl
@[simp] theorem acceptCommand_env : (acceptCommand s).env = { s.env with pins := { s.env.pins with cmdValid := false } } := rfl
end

section
variable (s : State)

@[simp] theorem advanceInputs_fa : (advanceInputs s).fa = s.fa := rfl
@[simp] theorem advanceInputs_fb : (advanceInputs s).fb = s.fb := rfl
@[simp] theorem advanceInputs_tw : (advanceInputs s).tw = s.tw := rfl
@[simp] theorem advanceInputs_ddsWord : (advanceInputs s).ddsWord = s.ddsWord := rfl
@[simp] theorem advanceInputs_ddsValid : (advanceInputs s).ddsValid = s.ddsValid := rfl
@[simp] theorem advanceInputs_phase : (advanceInputs s).phase = s.phase := rfl
@[simp] theorem advanceInputs_err : (advanceInputs s).err = s.err := rfl
@[simp] theorem advanceInputs_chipInit : (advanceInputs s).chipInit = s.chipInit := rfl
@[simp] theorem advanceInputs_idx : (advanceInputs s).idx = s.idx := rfl
@[simp] theorem advanceInputs_fmtw : (advanceInputs s).fmtw = s.fmtw := rfl
@[simp] theorem advanceInputs_ctw : (advanceInputs s).ctw = s.ctw := rfl
@[simp] theorem advanceInputs_swLow : (advanceInputs s).swLow = s.swLow := rfl
@[simp] theorem advanceInputs_swSpan : (advanceInputs s).swSpan = s.swSpan := rfl
@[simp] theorem advanceInputs_swK : (advanceInputs s).swK = s.swK := rfl
@[simp] theorem advanceInputs_fmOffset : (advanceInputs s).fmOffset = s.fmOffset := rfl
@[simp] theorem advanceInputs_amTable : (advanceInputs s).amTable = s.amTable := rfl
@[simp] theorem advanceInputs_lines : (advanceInputs s).lines = s.lines := rfl
@[simp] theorem advanceInputs_trace : (advanceInputs s).trace = s.trace := rfl
@[simp] theorem advanceInputs_env : (advanceInputs s).env = s.env.advance := rfl
end

section
variable (s : State)

@[simp] theorem blockReset_fa : (blockReset s).fa = State.reset.fa := rfl
@[simp] theorem blockReset_fb : (blockReset s).fb = State.reset.fb := rfl
@[simp] theorem blockReset_tw : (blockReset s).tw = State.reset.tw := rfl
@[simp] theorem blockReset_ddsWord : (blockReset s).ddsWord = State.reset.ddsWord := rfl
@[simp] theorem blockReset_ddsValid : (blockReset s).ddsValid = State.reset.ddsValid := rfl
@[simp] theorem blockReset_phase : (blockReset s).phase = State.reset.phase := rfl
@[simp] theorem blockReset_err : (blockReset s).err = State.reset.err := rfl
@[simp] theorem blockReset_chipInit : (blockReset s).chipInit = State.reset.chipInit := rfl
@[simp] theorem blockReset_idx : (blockReset s).idx = State.reset.idx := rfl
@[simp] theorem blockReset_fmtw : (blockReset s).fmtw = State.reset.fmtw := rfl
@[simp] theorem blockReset_ctw : (blockReset s).ctw = State.reset.ctw := rfl
@[simp] theorem blockReset_swLow : (blockReset s).swLow = State.reset.swLow := rfl
@[simp] theorem blockReset_swSpan : (blockReset s).swSpan = State.reset.swSpan := rfl
@[simp] theorem blockReset_swK : (blockReset s).swK = State.reset.swK := rfl
@[simp] theorem blockReset_fmOffset : (blockReset s).fmOffset = s.fmOffset := rfl
@[simp] theorem blockReset_amTable : (blockReset s).amTable = s.amTable := rfl
@[simp] theorem blockReset_lines : (blockReset s).lines = State.reset.lines := rfl
@[simp] theorem blockReset_trace : (blockReset s).trace = s.trace ++ [.blockReset] := rfl
@[simp] theorem blockReset_env : (blockReset s).env = s.env := rfl
end

/-- raise Error(code) is complete(code) (R232). -/
@[simp] theorem raiseError_eq_complete (c : ErrCode) (s : State) : raiseError c s = complete c s := rfl

end Sys2Proof.Machine
end

