-- ==== Sys2Proof/Laws/Ops.lean ====
section
/-! SUPPORT. One spec lemma per shared operation: everything it can do, for proofs to cite instead of unfolding it. -/

namespace Sys2Proof.Machine

/-- Emitting a list of events changes the line levels and the trace only. -/
theorem emitAll_eq (es : List Event) (s : State) :
    emitAll es s = { s with lines := es.foldl Lines.after s.lines, trace := s.trace ++ es } := by
  induction es generalizing s with
  | nil => simp [emitAll]
  | cons e es ih =>
    have := ih (emit e s)
    simp only [emitAll, List.foldl_cons] at this ⊢
    rw [this]
    simp [emit]

/-- A frame records its word, appends its 18 events and leaves the bus and both strobes idle. -/
theorem sendFrame_eq (w : Word) (s : State) :
    sendFrame w s =
      { s with
        ddsWord := w, ddsValid := true
        lines := { s.lines with d := 0x00, wClk := false, fqUd := false }
        trace := s.trace ++ frame w } := by
  simp [sendFrame, emitAll_eq, recordFrame, emit, frame, frameBytes, strobeByte, Lines.after]

section
variable (w : Word) (s : State)

@[simp] theorem sendFrame_fa : (sendFrame w s).fa = s.fa := by rw [sendFrame_eq]
@[simp] theorem sendFrame_fb : (sendFrame w s).fb = s.fb := by rw [sendFrame_eq]
@[simp] theorem sendFrame_tw : (sendFrame w s).tw = s.tw := by rw [sendFrame_eq]
@[simp] theorem sendFrame_ddsWord : (sendFrame w s).ddsWord = w := by rw [sendFrame_eq]
@[simp] theorem sendFrame_ddsValid : (sendFrame w s).ddsValid = true := by rw [sendFrame_eq]
@[simp] theorem sendFrame_phase : (sendFrame w s).phase = s.phase := by rw [sendFrame_eq]
@[simp] theorem sendFrame_err : (sendFrame w s).err = s.err := by rw [sendFrame_eq]
@[simp] theorem sendFrame_chipInit : (sendFrame w s).chipInit = s.chipInit := by rw [sendFrame_eq]
@[simp] theorem sendFrame_idx : (sendFrame w s).idx = s.idx := by rw [sendFrame_eq]
@[simp] theorem sendFrame_fmtw : (sendFrame w s).fmtw = s.fmtw := by rw [sendFrame_eq]
@[simp] theorem sendFrame_ctw : (sendFrame w s).ctw = s.ctw := by rw [sendFrame_eq]
@[simp] theorem sendFrame_swLow : (sendFrame w s).swLow = s.swLow := by rw [sendFrame_eq]
@[simp] theorem sendFrame_swSpan : (sendFrame w s).swSpan = s.swSpan := by rw [sendFrame_eq]
@[simp] theorem sendFrame_swK : (sendFrame w s).swK = s.swK := by rw [sendFrame_eq]
@[simp] theorem sendFrame_fmOffset : (sendFrame w s).fmOffset = s.fmOffset := by rw [sendFrame_eq]
@[simp] theorem sendFrame_amTable : (sendFrame w s).amTable = s.amTable := by rw [sendFrame_eq]
@[simp] theorem sendFrame_lines : (sendFrame w s).lines = { s.lines with d := 0x00, wClk := false, fqUd := false } := by rw [sendFrame_eq]
@[simp] theorem sendFrame_trace : (sendFrame w s).trace = s.trace ++ frame w := by rw [sendFrame_eq]
@[simp] theorem sendFrame_env : (sendFrame w s).env = s.env := by rw [sendFrame_eq]
end

/-- A frame holds D, W_CLK and FQ_UD events and no other. -/
theorem mem_frame {w : Word} {e : Event} (h : e ∈ frame w) :
    (∃ v, e = .d v) ∨ (∃ b, e = .wclk b) ∨ (∃ b, e = .fqud b) := by
  simp [frame, frameBytes, strobeByte] at h
  aesop

/-- The operand reading of R84 is the two's complement value. -/
theorem signedOperand_eq_toInt (f : Word) : signedOperand f = f.toInt := by
  have h31 : f.getLsbD 31 = decide (2147483648 ≤ f.toNat) := by
    have := f.isLt
    rw [← BitVec.testBit_toNat, Nat.testBit_eq_decide_div_mod_eq]
    rcases Nat.lt_or_ge f.toNat 2147483648 with h | h
    · simp [Nat.div_eq_of_lt h, Nat.not_le.mpr h]
    · simp [show f.toNat / 2147483648 = 1 by omega, h]
  unfold signedOperand
  rw [h31, BitVec.toInt_eq_toNat_cond]
  split <;> split <;> simp_all <;> omega

/-- Reading a table at IDX is reading its entry of that number (R10, R143). -/
theorem tableGet_eq {α : Type} (t : Vector α 32) (i : BitVec 5) : tableGet t i = t[i.toNat] := rfl

/-- Reading a table at a number narrowed to IDX is reading the entry of that number mod 32 (R143). -/
theorem tableGet_ofNat {α : Type} (t : Vector α 32) (j : Nat) : tableGet t (BitVec.ofNat 5 j) = t[j % 32] := by
  simp [tableGet]

/-- Reading an entry of a table made entry by entry. -/
theorem tableGet_ofFn {α : Type} (f : Fin 32 → α) (i : BitVec 5) :
    tableGet (Vector.ofFn f) i = f ⟨i.toNat, i.isLt⟩ := by
  simp [tableGet]

/-- Inside the domain the tuning word is the formula of R101. -/
theorem tuningWord_of_inDomain {f : Int} (h : inDomain f) :
    tuningWord f = BitVec.ofInt 32 (fold f * 4294967296 / 125000000) := by
  rw [tuningWord, if_pos h, Config.fRef]

/-- Inside the domain the folded frequency lies in [0, 62,500,000] (R102). -/
theorem fold_bounds {f : Int} (h : inDomain f) : 0 ≤ fold f ∧ fold f ≤ 62500000 := by
  simp only [inDomain, Config.fRef] at h
  by_cases hf : f > 62500000
  · simp only [fold, Config.fFold, Config.fRef]; omega
  · simp only [fold, Config.fFold]; omega

end Sys2Proof.Machine

namespace Sys2Proof

/-- The fields of a word made of two fields. -/
@[simp] theorem opOf_commandOfFields (op : Byte) (opd : Word) : opOf (commandOfFields op opd) = op := by
  simpa [opOf, commandOfFields] using BitVec.extractLsb'_append_eq_left (a := op) (b := opd)

@[simp] theorem opdOf_commandOfFields (op : Byte) (opd : Word) : opdOf (commandOfFields op opd) = opd := by
  simpa [opdOf, commandOfFields] using BitVec.extractLsb'_append_eq_right (a := op) (b := opd)

/-- Decoding a word written as its two fields. -/
theorem decodeCommand_append (op : Byte) (opd : Word) : decodeCommand (op ++ opd) = decode op opd := by
  show decode (opOf (commandOfFields op opd)) (opdOf (commandOfFields op opd)) = decode op opd
  rw [opOf_commandOfFields, opdOf_commandOfFields]

/-- A command word is its two fields. -/
theorem commandOfFields_opOf_opdOf (w : Command) : commandOfFields (opOf w) (opdOf w) = w := by
  apply BitVec.eq_of_getLsbD_eq
  intro i hi
  simp only [commandOfFields, opOf, opdOf, BitVec.getLsbD_append, BitVec.getLsbD_extractLsb']
  by_cases h : i < 32
  · simp [h]
  · simp [h, show i - 32 < 8 by omega, show 32 + (i - 32) = i by omega]

end Sys2Proof
end

