-- ==== Sys2Proof/Laws/PerInstr.lean ====
section
/-! SUPPORT. Statements about every instruction as syntax, one lemma per constructor. -/

namespace Sys2Proof.Laws.EncodedFields

/-- An instruction is well-formed, its word's OP field is its mnemonic's opcode, its OPD field its operand, and these
two fields are a well-formed raw command (R81, R87, R88, R89). -/
def Statement (i : Instr) : Prop :=
  i.wf = true ∧ opOf (encode i) = i.mnemonic.opcode ∧ opdOf (encode i) = i.operand ∧
    RawCommand.wf ⟨opOf (encode i), opdOf (encode i)⟩ = true

theorem nop : Statement .nop := by simp [Statement, encode]; decide
theorem resetChip : Statement .resetChip := by simp [Statement, encode]; decide
theorem setFa (f : Word) : Statement (.setFa f) := by
  simp [Statement, encode, Instr.wf, RawCommand.wf, Instr.mnemonic, Mnemonic.opcode]
theorem setFb (f : Word) : Statement (.setFb f) := by
  simp [Statement, encode, Instr.wf, RawCommand.wf, Instr.mnemonic, Mnemonic.opcode]
theorem tune (f : Word) : Statement (.tune f) := by
  simp [Statement, encode, Instr.wf, RawCommand.wf, Instr.mnemonic, Mnemonic.opcode]
theorem program (w : Word) : Statement (.program w) := by
  simp [Statement, encode, Instr.wf, RawCommand.wf, Instr.mnemonic, Mnemonic.opcode]
theorem setFreq (f : Word) : Statement (.setFreq f) := by
  simp [Statement, encode, Instr.wf, RawCommand.wf, Instr.mnemonic, Mnemonic.opcode]
theorem fmRun : Statement .fmRun := by simp [Statement, encode]; decide
theorem amRun : Statement .amRun := by simp [Statement, encode]; decide
theorem sweepRun : Statement .sweepRun := by simp [Statement, encode]; decide

end Sys2Proof.Laws.EncodedFields
end

