-- ==== Sys2Proof/Laws/Run.lean ====
section
/-! SUPPORT. Runs of the machine, one step at a time, and the inputs they see. -/

namespace Sys2Proof

/-- A run of no step ends where it starts. -/
@[simp] theorem run_zero (s : Machine.State) : core.run 0 s = .next s := rfl

/-- A run that starts with a step to `u` goes on from `u`. -/
theorem run_succ {s u : Machine.State} (n : Nat) (h : Machine.step s = .next u) :
    core.run (n + 1) s = core.run n u := by
  have h' : core.step s = .next u := h
  simp only [Host.Core.run, h']

/-- A run that reaches `u` in `m` steps goes on from `u`. -/
theorem run_add {s u : Machine.State} (m n : Nat) (h : core.run m s = .next u) : core.run (m + n) s = core.run n u := by
  induction m generalizing s with
  | zero =>
    cases h
    rw [Nat.zero_add]
  | succ m ih =>
    cases hs : Machine.step s with
    | next v =>
      rw [run_succ m hs] at h
      rw [Nat.succ_add, run_succ _ hs, ih h]
    | fault r => exact nomatch r
    | refused r =>
      have hs' : core.step s = .refused r := hs
      simp [Host.Core.run, hs'] at h

namespace Safety

open Sys2Proof.Machine

/-- The levels of the first upcoming step. -/
theorem upcoming_head {n : Nat} {p : Inputs → Prop} {s : State} (h : Upcoming (n + 1) p s) : p s.env.pins :=
  h.2 _ (by simp)

/-- After one step the rest of the upcoming levels are upcoming, for a property that holding a command keeps. -/
theorem upcoming_tail {n : Nat} {p : Inputs → Prop} (hp : ∀ a b : Inputs, p b → p (a.holdCommand b)) {s t : State}
    (h : Upcoming (n + 1) p s) (ht : t.env = s.env.advance) : Upcoming n p t := by
  obtain ⟨h1, h2⟩ := h
  rcases hs : s.env.script with _ | ⟨x, xs⟩
  · rw [hs, List.length_nil] at h1
    obtain rfl : n = 0 := by omega
    simp [Upcoming]
  · refine ⟨?_, ?_⟩ <;> rw [ht]
    · simp only [hs, List.length_cons, Env.advance, List.tail_cons] at h1 ⊢
      omega
    · cases n with
      | zero => simp
      | succ n =>
        intro y hy
        simp only [Env.advance, Env.sample, hs, List.tail_cons, List.take_succ_cons, List.mem_cons] at hy
        rcases hy with rfl | hy
        · exact hp _ _ (h2 x (by simp [hs]))
        · exact h2 y (by simp [hs, hy])

/-- Holding a command changes no other input level. -/
theorem holdCommand_levels (a b : Inputs) :
    (a.holdCommand b).rst = b.rst ∧ (a.holdCommand b).keyHeld = b.keyHeld ∧ (a.holdCommand b).keyReady = b.keyReady := by
  unfold Inputs.holdCommand
  split <;> simp

/-- After `k` steps the keypad and reset inputs are those of the `k`-th upcoming entry. -/
theorem advance_levels (k : Nat) (e : Env) (x : Inputs) (h : (e.pins :: e.script)[k]? = some x) :
    (Env.advance^[k] e).pins.rst = x.rst ∧ (Env.advance^[k] e).pins.keyHeld = x.keyHeld ∧
      (Env.advance^[k] e).pins.keyReady = x.keyReady := by
  induction k generalizing e x with
  | zero => simp at h; simp [h]
  | succ k ih =>
    rw [Function.iterate_succ_apply]
    rcases hs : e.script with _ | ⟨y, ys⟩
    · simp [hs] at h
    · have hl := holdCommand_levels e.pins y
      cases k with
      | zero =>
        simp only [hs, List.getElem?_cons_succ, List.getElem?_cons_zero, Option.some.injEq] at h
        subst h
        simpa [Env.advance, Env.sample, hs] using hl
      | succ k =>
        refine ih e.advance x ?_
        simp only [hs, List.getElem?_cons_succ] at h
        simpa [Env.advance, Env.sample, hs] using h

end Safety

end Sys2Proof
end

