-- ==== Sys2Proof/Laws/Step.lean ====
section
/-! SUPPORT. What a step and an issue step can do, said once for all proofs about them. -/

namespace Sys2Proof.Machine

/-- Every command's issue step answers a next state, and leaves the environment and the constant tables as they were. -/
theorem exec_next (i : Instr) (s : State) :
    ∃ t, exec i s = .next t ∧ t.env = s.env ∧ t.fmOffset = s.fmOffset ∧ t.amTable = s.amTable := by
  cases i <;> simp only [exec, execNop, execResetChip, execSetFa, execSetFb, execTune, execProgram, execSetFreq, execFmRun,
    execAmRun, execSweepRun] <;> (repeat' split) <;>
    exact ⟨_, rfl, by simp [setF, emitAll_eq], by simp [setF, emitAll_eq], by simp [setF, emitAll_eq]⟩

/-- The same for the issue step of any word, illegal ones included. -/
theorem issueCommand_next (w : Command) (s : State) :
    ∃ t, issueCommand w s = .next t ∧ t.env = s.env ∧ t.fmOffset = s.fmOffset ∧ t.amTable = s.amTable := by
  unfold issueCommand
  split
  · exact exec_next _ _
  · exact ⟨_, rfl, rfl, rfl, rfl⟩

/-- What no run step changes, in any phase: the registers and tables that commands write, CHIP_INIT, the constant tables
and the environment. -/
theorem runPhase_frame (h r : Bool) (s : State) :
    (runPhase h r s).fa = s.fa ∧ (runPhase h r s).fb = s.fb ∧ (runPhase h r s).tw = s.tw ∧
      (runPhase h r s).chipInit = s.chipInit ∧ (runPhase h r s).fmtw = s.fmtw ∧ (runPhase h r s).ctw = s.ctw ∧
      (runPhase h r s).swLow = s.swLow ∧ (runPhase h r s).swSpan = s.swSpan ∧
      (runPhase h r s).fmOffset = s.fmOffset ∧ (runPhase h r s).amTable = s.amTable ∧ (runPhase h r s).env = s.env := by
  unfold runPhase
  split <;> simp only [runFmLoop, runAmLoop, runSweepRamp, runSweepEnd, runReleaseWait, emitAll_eq, setF] <;>
    (repeat' split) <;> simp

/-- Everything a step can be: the reset step, an idle wait, the issue step of a decoded command, the issue step of an
illegal word, or a run step. -/
theorem step_cases {s t : State} (h : step s = .next t) :
    (s.env.pins.rst = true ∧ t = advanceInputs (blockReset s)) ∨
    (s.env.pins.rst = false ∧ s.phase = .idle ∧ s.env.pins.cmdValid = false ∧ t = advanceInputs s) ∨
    (s.env.pins.rst = false ∧ s.phase = .idle ∧ s.env.pins.cmdValid = true ∧
      ∃ i u, decodeCommand s.env.pins.cmd = .ok i ∧ exec i (acceptCommand s) = .next u ∧ t = advanceInputs u) ∨
    (s.env.pins.rst = false ∧ s.phase = .idle ∧ s.env.pins.cmdValid = true ∧
      (∃ e, decodeCommand s.env.pins.cmd = .error e) ∧
      t = advanceInputs (complete .illegal (acceptCommand s))) ∨
    (s.env.pins.rst = false ∧ s.phase ≠ .idle ∧
      t = advanceInputs (runPhase s.env.pins.keyHeld s.env.pins.keyReady s)) := by
  unfold step sequencerStep State.cmdReady at h
  cases hr : s.env.pins.rst <;> cases hv : s.env.pins.cmdValid <;> by_cases hp : s.phase = .idle <;>
    simp [hr, hv, hp] at h ⊢ <;> try exact h.symm
  unfold issueCommand at h
  split at h
  · next i hi =>
    obtain ⟨u, hu, -⟩ := exec_next i (acceptCommand s)
    simp only [hu, thenAdvance, Host.Outcome.next.injEq] at h
    exact .inl ⟨i, hi, u, hu, h.symm⟩
  · next e he =>
    simp only [thenAdvance, Host.Outcome.next.injEq, raiseError_eq_complete] at h
    exact .inr ⟨⟨e, he⟩, h.symm⟩

end Sys2Proof.Machine
end

