-- ==== Sys2Proof/Laws/Sweep.lean ====
section
/-! SUPPORT. The spec lemma of endpoint normalisation (spec/43_sweep.md R181). -/

namespace Sys2Proof.Machine

/-- The difference of two registers as bits is the difference of their values, narrowed. -/
theorem sub_eq_ofInt (a b : Word) : a - b = BitVec.ofInt 32 (a.toInt - b.toInt) := by
  apply BitVec.eq_of_toInt_eq
  simp [BitVec.toInt_sub, BitVec.toInt_ofInt]

/-- The lower endpoint is the smaller of FA and FB, and the span is their distance, exactly. -/
theorem sweepEndpoints_spec (s : State) :
    (sweepEndpoints s).1.toInt = min s.fa.toInt s.fb.toInt ∧
      (((sweepEndpoints s).2 - (sweepEndpoints s).1).toNat : Int) = |s.fb.toInt - s.fa.toInt| := by
  have ha := BitVec.toInt_lt (x := s.fa)
  have ha' := BitVec.le_toInt s.fa
  have hb := BitVec.toInt_lt (x := s.fb)
  have hb' := BitVec.le_toInt s.fb
  norm_num at ha ha' hb hb'
  by_cases h : s.fb.toInt < s.fa.toInt
  · have he : sweepEndpoints s = (s.fb, s.fa) := by simp [sweepEndpoints, frequencyOf, h]
    rw [he, sub_eq_ofInt, abs_of_neg (by omega), BitVec.toNat_ofInt]
    constructor
    · dsimp only; omega
    · norm_num; omega
  · have he : sweepEndpoints s = (s.fa, s.fb) := by simp [sweepEndpoints, frequencyOf, h]
    rw [he, sub_eq_ofInt, abs_of_nonneg (by omega), BitVec.toNat_ofInt]
    constructor
    · dsimp only; omega
    · norm_num; omega

end Sys2Proof.Machine
end

