-- ==== Sys2Proof/Laws/Window.lean ====
section
/-! SUPPORT. STATUS through the register window, as the function of the fields it shows. -/

namespace Sys2Proof.Machine

/-- Reading window address 0x4 (R62) gives the STATUS word of the fields it mirrors (R25, R30). -/
theorem winRead_status (s : State) :
    winRead 0x4 s =
      statusOf s.lines.intDis s.lines.sync s.lines.ampEn s.ddsValid s.chipInit s.err s.phase := rfl

end Sys2Proof.Machine
end

