-- ==== Sys2Proof/Machine/Platform.lean ====
section
/-! DEFINITION. What the platform around the block derives from its state: the delay after each step and the longest gap
between watchdog kicks (spec/60_exceptions.md R245, R246), and the amplitude channel's output (spec/42_modulation.md
R164). No meaning depends on them (R7, R281). -/

namespace Sys2Proof.Machine

/-- The delay, a lower bound, that follows a step of the phase (R245). -/
def delayAfter : Phase → Option Nat
  | .idle => none
  | .fmLoop => some Config.tFm
  | .amLoop => some Config.tAm
  | .sweepRamp => some Config.tStep
  | .sweepEnd => some Config.tHold
  | .releaseWait => none

/-- The longest gap between two WDT events inside a blocking command: one frame and one delay (R246, R274). -/
def longestKickGap : Nat := Config.tFrame + max (max Config.tFm Config.tAm) (max Config.tStep Config.tHold)

/-- The platform's watchdog duty (R274). -/
abbrev watchdogDuty : Prop := longestKickGap < Config.wdtTimeout

/-- The amplitude channel's output: the duty of the sample while AMP_EN = 1 (R164); open while it is disabled (U11). -/
def ampOutput (s : State) : Nat :=
  if s.lines.ampEn then Config.ampDutyMap s.lines.ampDuty else Config.ampDisabledOutput

end Sys2Proof.Machine
end

