-- ==== Sys2Proof/Tests/Slice0.lean ====
section
/-! SUPPORT. Tests of the model, each of one step, their expected values from spec/95_test_vectors.md (the vector is
named at the test) or from the opcode map's bit patterns; and for each statement with hypotheses a theorem that meets
them all. -/

namespace Sys2Proof.Tests

open Sys2Proof.Machine Sys2Proof.Safety

/-! ### Helpers -/

/-- The reset state after a chip reset, with an empty trace. -/
def booted : State := { State.reset with chipInit := true, trace := [] }

/-- A chip-reset state in a phase, with the lines that phase has on. -/
def inPhase (p : Phase) : State :=
  { booted with
    phase := p
    lines := { Lines.reset with
      intDis := p == .fmLoop || p == .amLoop, ampEn := p == .amLoop, sync := p == .sweepEnd } }

/-- A presented command. -/
def presenting (w : Command) (s : State) : State := withCommand true w s

/-- What `p` says of the next state, false where there is none. -/
def nextHas (o : Host.Outcome State Fault Refusal) (p : State → Bool) : Bool :=
  match o with
  | .next s => p s
  | .fault _ => false
  | .refused _ => false

/-- TEST_FM of 95_test_vectors.md 2.6: a test-only table. -/
def testFm : Vector Word 32 :=
  Vector.ofFn fun i => if i.val = 1 then 75000 else if i.val = 2 then BitVec.ofInt 32 (-75000) else 0

/-- TEST_AM of 95_test_vectors.md 2.7: a test-only table. -/
def testAm : Vector Byte 32 := Vector.ofFn fun i => BitVec.ofNat 8 (8 * i.val)

/-! ### Well-formedness: an ill-formed term for each check -/

theorem test_wf_reserved_opcode : RawCommand.wf ⟨0x0A, 0⟩ = false := by decide
theorem test_wf_nop_operand : RawCommand.wf ⟨0x00, 1⟩ = false := by decide
theorem test_wf_resetChip_operand : RawCommand.wf ⟨0x01, 0x80000000⟩ = false := by decide
theorem test_wf_fmRun_operand : RawCommand.wf ⟨0x07, 1⟩ = false := by decide
theorem test_wf_amRun_operand : RawCommand.wf ⟨0x08, 2⟩ = false := by decide
theorem test_wf_sweepRun_operand : RawCommand.wf ⟨0x09, 0xFFFFFFFF⟩ = false := by decide
theorem test_wf_program_zero : RawCommand.wf ⟨0x05, 0⟩ = true := by decide
theorem test_accepts_f0_immediate : Format.noOperand.accepts (some (.dec 0)) = false := by decide
theorem test_accepts_f1_missing : Format.signedImm.accepts none = false ∧ Format.unsignedImm.accepts none = false := by
  decide
theorem test_accepts_signed_range :
    Format.signedImm.accepts (some (.dec 2147483648)) = false ∧
    Format.signedImm.accepts (some (.dec (-2147483649))) = false := by decide
theorem test_accepts_unsigned_range :
    Format.unsignedImm.accepts (some (.dec 4294967296)) = false ∧
    Format.unsignedImm.accepts (some (.dec (-1))) = false := by decide
theorem test_accepts_hex_range :
    Format.signedImm.accepts (some (.hex 4294967296)) = false ∧
    Format.unsignedImm.accepts (some (.hex 4294967296)) = false := by decide

/-! ### Decoding: a word of each constructor, from the bit patterns of R87 -/

theorem test_decode_nop :
    decodeCommand 0b0000000000000000000000000000000000000000#40 = .ok .nop := by decide
theorem test_decode_resetChip :
    decodeCommand 0b0000000100000000000000000000000000000000#40 = .ok .resetChip := by decide
/-- SET_FA 124_999_900 is 0x02_077358DC (R213). -/
theorem test_decode_setFa :
    decodeCommand 0b0000001000000111011100110101100011011100#40 = .ok (.setFa 124999900) := by decide
/-- SET_FB 1_000_000 is 0x03_000F4240 (R214). -/
theorem test_decode_setFb :
    decodeCommand 0b0000001100000000000011110100001001000000#40 = .ok (.setFb 1000000) := by decide
/-- TUNE 1_000_000 is 0x04_000F4240 (R121). -/
theorem test_decode_tune :
    decodeCommand 0b0000010000000000000011110100001001000000#40 = .ok (.tune 1000000) := by decide
/-- PROGRAM 0x12345678 (VT8). -/
theorem test_decode_program :
    decodeCommand 0b0000010100010010001101000101011001111000#40 = .ok (.program 0x12345678) := by decide
/-- SET_FREQ 10_000_000 is 0x06_00989680 (R125). -/
theorem test_decode_setFreq :
    decodeCommand 0b0000011000000000100110001001011010000000#40 = .ok (.setFreq 10000000) := by decide
theorem test_decode_fmRun :
    decodeCommand 0b0000011100000000000000000000000000000000#40 = .ok .fmRun := by decide
theorem test_decode_amRun :
    decodeCommand 0b0000100000000000000000000000000000000000#40 = .ok .amRun := by decide
theorem test_decode_sweepRun :
    decodeCommand 0b0000100100000000000000000000000000000000#40 = .ok .sweepRun := by decide
/-- VE3, VE6, VE7. -/
theorem test_decode_illegal :
    decodeCommand 0x0180000000#40 = .error (.operandNotZero 0x01 0x80000000) ∧
    decodeCommand 0x0A00000000#40 = .error (.reservedOpcode 0x0A) ∧
    decodeCommand 0xFFFFFFFFFF#40 = .error (.reservedOpcode 0xFF) := by decide
/-- The link order of R68: opcode byte first, then the operand from its most significant byte. -/
theorem test_decode_bytes :
    decodeBytes [0x06, 0x00, 0x98, 0x96, 0x80] = .ok (.setFreq 10000000) ∧
    decodeBytes [0x06, 0x00, 0x98, 0x96] = .error (.notFiveBytes 4) := by decide
theorem test_decode_table_word : decodeTableWord 40 0x0600989680 = some (.setFreq 10000000) := by decide

/-! ### The tuning-word generator (95_test_vectors.md 2.1) -/

theorem test_tuningWord_direct :
    tuningWord 1 = 34 ∧ tuningWord 3 = 103 ∧ tuningWord 75000 = 0x00275254 ∧ tuningWord 9000000 = 0x126E978D := by
  decide
theorem test_tuningWord_folded :
    tuningWord 62500100 = 0x7FFFF294 ∧ tuningWord 100000000 = 0x33333333 ∧ tuningWord 62600000 = 0x7FCB923A := by decide

/-! ### The commands -/

/-- VC1. -/
theorem test_nop :
    nextHas (exec .nop { booted with err := .range }) (fun s => s.err == .ok && s.fa == 1000000 && s.trace == []) =
      true := by decide
/-- VC3. -/
theorem test_setFa_commit :
    nextHas (exec (.setFa 0x077358DC) State.reset) (fun s => s.fa == 124999900 && s.err == .ok) = true := by decide
/-- VC6. -/
theorem test_setFa_range :
    nextHas (exec (.setFa 0x80000000) State.reset) (fun s => s.fa == 1000000 && s.err == .range) = true := by decide
/-- VC7. -/
theorem test_setFb_commit :
    nextHas (exec (.setFb 0x000F4240) State.reset) (fun s => s.fb == 1000000 && s.fa == 1000000 && s.err == .ok) =
      true := by decide
/-- VC8. -/
theorem test_setFb_range :
    nextHas (exec (.setFb 0x07735940) State.reset) (fun s => s.fb == 9000000 && s.err == .range) = true := by decide
/-- VT2. -/
theorem test_tune :
    nextHas (exec (.tune 0x03B9ACA0) State.reset) (fun s => s.tw == 0x80000000 && s.err == .ok) = true := by decide
/-- VT5. -/
theorem test_tune_domain :
    nextHas (exec (.tune 0xFFFFFFFF) { State.reset with tw := 5 }) (fun s => s.tw == 5 && s.err == .domain) = true := by
  decide
/-- VT8: the bytes 00 12 34 56 78, one W_CLK pulse each, one FQ_UD pulse, the bus left idle. -/
theorem test_program :
    nextHas (exec (.program 0x12345678) booted) (fun s =>
      s.ddsWord == 0x12345678 && s.ddsValid && s.err == .ok && s.trace ==
        [.d 0x00, .wclk true, .wclk false, .d 0x12, .wclk true, .wclk false, .d 0x34, .wclk true, .wclk false,
         .d 0x56, .wclk true, .wclk false, .d 0x78, .wclk true, .wclk false, .fqud true, .fqud false, .d 0x00]) =
      true := by decide
/-- VT7. -/
theorem test_program_noInit :
    nextHas (exec (.program 0x12345678) State.reset) (fun s =>
      s.ddsWord == 0 && s.err == .noInit && s.trace == [.blockReset]) = true := by decide
/-- VT10. -/
theorem test_setFreq :
    nextHas (exec (.setFreq 10000000) { booted with tw := 7 }) (fun s =>
      s.ddsWord == 0x147AE147 && s.tw == 7 && s.trace == frame 0x147AE147) = true := by decide
/-- VT14. -/
theorem test_setFreq_priority :
    nextHas (exec (.setFreq 0xFFFFFFFF) State.reset) (fun s => s.err == .noInit) = true := by decide
/-- VT16. -/
theorem test_resetChip :
    nextHas (exec .resetChip { booted with ddsWord := 0x147AE147, ddsValid := true }) (fun s =>
      s.ddsWord == 0 && !s.ddsValid && winRead 0x4 s == 0x00000100 &&
        s.trace == [.rstDds true, .rstDds false, .wclk false, .fqud false]) = true := by decide
/-- VM3 and VM9: FA = 75,000 is accepted; around 62,500,000 the entries fold one by one. -/
theorem test_fmRun :
    nextHas (exec .fmRun { booted with fa := 75000, fmOffset := testFm }) (fun s =>
      s.phase == .fmLoop && s.fmtw[0] == 0x00275254 && s.fmtw[1] == 0x004EA4A8 && s.fmtw[2] == 0 && s.idx == 0 &&
        s.trace == [.intDis true]) = true ∧
    nextHas (exec .fmRun { booted with fa := 62500000, fmOffset := testFm }) (fun s =>
      s.fmtw[0] == 0x80000000 && s.fmtw[1] == 0x7FD8ADAB && s.fmtw[2] == 0x7FD8ADAB) = true := by decide
/-- VM1, P-c, VM10 and VM11. -/
theorem test_fmRun_errors :
    nextHas (exec .fmRun { State.reset with fa := 50000, fmOffset := testFm }) (fun s => s.err == .noInit) = true ∧
    nextHas (exec .fmRun { booted with fa := 50000, fmOffset := testFm }) (fun s => s.err == .fmLow && s.trace == []) =
      true ∧
    nextHas (exec .fmRun { booted with fa := 124925000, fmOffset := testFm }) (fun s =>
      s.phase == .fmLoop && s.fmtw[1] == 0) = true ∧
    nextHas (exec .fmRun { booted with fa := 124925001, fmOffset := testFm }) (fun s =>
      s.err == .domain && s.trace == []) = true := by decide
/-- VM6: the last iteration. -/
theorem test_fmLoop_exit :
    (let s := runPhase true false { inPhase .fmLoop with idx := 2, fmtw := Vector.ofFn fun i => BitVec.ofNat 32 i.val }
     s.phase == .releaseWait && s.idx == 3 && winRead 0x4 s == 0x0000030B &&
      s.trace == frame 2 ++ [.wdt, .intDis false]) = true := by decide
/-- VM12: after entry 31 comes entry 0. -/
theorem test_fmLoop_wraps :
    (let s := runPhase false true { inPhase .fmLoop with idx := 31, fmtw := Vector.ofFn fun i => BitVec.ofNat 32 i.val }
     s.phase == .fmLoop && s.idx == 0 && s.ddsWord == 31) = true := by decide
/-- VA2 and VA7. -/
theorem test_amRun :
    nextHas (exec .amRun booted) (fun s =>
      s.ctw == 0x020C49BA && winRead 0x4 s == 0x00001505 && s.trace == [.ampEn true, .intDis true]) = true ∧
    nextHas (exec .amRun { booted with fa := 100000000 }) (fun s => s.ctw == 0x33333333) = true := by decide
/-- VA4. -/
theorem test_amLoop_exit :
    (let s := runPhase true false { inPhase .amLoop with idx := 1, ctw := 0x020C49BA, amTable := testAm }
     s.phase == .releaseWait && s.idx == 2 && winRead 0x4 s == 0x0000030B && s.lines.ampDuty == 0x08 &&
      s.trace == frame 0x020C49BA ++ [.duty 0x08, .wdt, .ampEn false, .intDis false]) = true := by decide
/-- VM7 and VM8. -/
theorem test_releaseWait :
    (let s := runPhase true true (inPhase .releaseWait); s.phase == .releaseWait && s.trace == [.wdt]) = true ∧
    (let s := runPhase false false (inPhase .releaseWait); s.phase == .idle && s.trace == [.wdt, .flush]) = true := by
  decide
/-- VS2 and VS3. -/
theorem test_sweepRun :
    nextHas (exec .sweepRun { booted with fa := 9000000, fb := 1000000 }) (fun s =>
      s.swLow == 1000000 && s.swSpan == 8000000 && s.swK == 0 && s.trace == [] && winRead 0x4 s == 0x00000107 &&
        s.fa == 9000000) = true ∧
    nextHas (exec .sweepRun booted) (fun s => s.swLow == 1000000 && s.swSpan == 8000000) = true := by decide
/-- VS4 and VS5. -/
theorem test_sweepRamp :
    (let s := runPhase false false { inPhase .sweepRamp with swLow := 1000000, swSpan := 8000000 }
     s.swK == 1 && s.trace == [.sync true] ++ frame 0x020C49BA ++ [.wdt]) = true ∧
    (let s := runPhase true true { inPhase .sweepRamp with swLow := 1000000, swSpan := 8000000, swK := 1 }
     s.swK == 2 && s.trace == frame 0x021CAC08 ++ [.wdt]) = true := by decide
/-- VS10, floor included, and VS7. -/
theorem test_sweepRamp_last :
    (let s := runPhase false false { inPhase .sweepRamp with swLow := 5000, swSpan := 1000, swK := 255 }
     s.swK == 256 && s.phase == .sweepEnd && s.ddsWord == 0x000324C4) = true := by decide
/-- VS8 and VS9. -/
theorem test_sweepEnd :
    (let s := runPhase true false { inPhase .sweepEnd with swLow := 1000000, swK := 256 }
     s.swK == 0 && s.phase == .sweepRamp && s.trace == [.sync false] ++ frame 0x020C49BA ++ [.wdt]) = true ∧
    (let s := runPhase false true { inPhase .sweepEnd with swLow := 1000000, swK := 256 }
     winRead 0x4 s == 0x00000300 && s.trace == [.sync false] ++ frame 0x020C49BA ++ [.wdt, .flush]) = true := by decide

/-! ### Illegal words, reset, the port and the window -/

/-- VE4 and P-a: ILLEGAL comes before NOINIT. -/
theorem test_illegal :
    nextHas (issueCommand 0x0700000005 State.reset) (fun s => s.err == .illegal && s.trace == [.blockReset]) = true := by
  decide
/-- R-b: a block reset in AM_LOOP. -/
theorem test_blockReset :
    (let s := blockReset { inPhase .amLoop with lines := { Lines.reset with ampEn := true, ampDuty := 0x40 } }
     s.phase == .idle && !s.lines.ampEn && s.lines.ampDuty == 0 && !s.chipInit && winRead 0x4 s == 0 &&
      s.trace == [.blockReset]) = true := by decide
/-- A step with RST high resets, whatever is presented (R239). -/
theorem test_step_reset :
    nextHas (step { inPhase .fmLoop with fa := 75000, env := ⟨⟨true, true, 0x0200000000, true, true⟩, [Inputs.quiet], 0⟩ })
      (fun s => s.fa == 1000000 && s.phase == .idle && s.env.pins.cmdValid) = true := by decide
/-- A step in IDLE issues the presented command and takes it off the port (VT15). -/
theorem test_step_issues :
    nextHas (step { presenting 0x0100000000 State.reset with
        env := ⟨⟨false, true, 0x0100000000, false, false⟩, [Inputs.quiet], 0⟩ })
      (fun s => winRead 0x4 s == 0x00000100 && !s.env.pins.cmdValid) = true := by decide
/-- withFetchWord runs the word at the very next step (VC9). -/
theorem test_step_fetchWord :
    nextHas (step (State.reset.withFetchWord 40 0x0200001388)) (fun s => s.fa == 5000 && s.err == .ok) = true := by decide
/-- VW1, VW2 and VW6. -/
theorem test_window :
    winRead 0x0 State.reset = 0x000F4240 ∧ winRead 0x1 State.reset = 0x00895440 ∧ winRead 0x5 State.reset = 0 ∧
      winRead 0xF State.reset = 0 := by decide
/-- VW7. -/
theorem test_window_status :
    winRead 0x4 (runPhase false false (inPhase .fmLoop)) = 0x00001303 := by decide

/-! ### The chip, in the reading of R110 -/

/-- A chip between frames that holds nothing known. -/
def freshChip : Chip := ⟨0x00, false, false, 0, ChipRegister.unknown, ChipRegister.unknown⟩

/-- The frame of 10 MHz (2.2): the bytes 00 14 7A E1 47, and a second FQ_UD pulse latches them again. -/
theorem test_chip_frame :
    (freshChip.seeAll (frame 0x147AE147)).working =
      ⟨some 0x00, some 0x14, some 0x7A, some 0xE1, some 0x47⟩ ∧
    (freshChip.seeAll (frame 0x147AE147 ++ [.fqud true, .fqud false])).working.word = some 0x147AE147 := by decide
/-- After a chip reset nothing of an earlier frame is known (U14), and the next byte is W0. -/
theorem test_chip_reset :
    (freshChip.seeAll (frame 0x147AE147 ++ [.d 0x55, .wclk true, .wclk false, .rstDds true, .rstDds false])).working.word =
      none ∧
    (freshChip.seeAll [.d 0x55, .wclk true, .wclk false, .rstDds true]).pointer = 0 := by decide

/-! ### The assembler -/

/-- The example of R92, with a comment. -/
theorem test_assemble_setFreq :
    assembleLine "SET_FREQ 10_000_000 ; after boot".toList = .ok [0x0600989680] := by decide
/-- VC5 in assembler syntax, a hexadecimal immediate, and refused immediates. -/
theorem test_assemble_immediates :
    assembleLine "SET_FA -1".toList = .ok [0x02FFFFFFFF] ∧
    assembleLine "PROGRAM 0x12345678".toList = .ok [0x0512345678] ∧
    assembleLine "SET_FB 2_147_483_648".toList = .error .immediateRefused ∧
    assembleLine "TUNE 0x100000000".toList = .error .immediateRefused := by decide
/-- The separators of log entry 13. -/
theorem test_assemble_separators :
    assembleLine "TUNE 5__0_".toList = .ok [0x0400000032] ∧ assembleLine "TUNE _50".toList = .error .badSyntax := by
  decide
/-- The expansion of R93. -/
theorem test_assemble_sweep :
    assembleLine "SWEEP 9_000_000, 1_000_000".toList = .ok [0x0200895440, 0x03000F4240, 0x0900000000] := by decide

/-! ### Witnesses: concrete data that meet the hypotheses of each statement that has some

One theorem per statement, named after it, with one part per clause, at a boundary of the clause's range. -/

/-- An illegal command word (VE4). -/
def illegalWord : Command := 0x0700000001

/-- Every offset at the lower bound of R39, so that FA = 75,000 reaches frequency 0. -/
def lowFm : Vector Word 32 := Vector.replicate 32 (BitVec.ofInt 32 (-75000))

/-- A sweep at its first step with FA = 0 and FB = 124,999,900, the widest span. -/
def widestSweep : State :=
  { inPhase .sweepRamp with fa := 0, fb := 124999900, swLow := 0, swSpan := 124999900 }

/-- `s` with scripted levels for `n` more steps after the one whose levels are `x`. -/
def scripted (n : Nat) (x : Inputs) (s : State) : State := { s with env := ⟨x, List.replicate n x, 0⟩ }

theorem upcoming_scripted (n : Nat) (p : Inputs → Prop) (x : Inputs) (s : State) (h : p x) :
    Upcoming (n + 1) p (scripted n x s) := by
  constructor
  · simp [scripted]
  · intro y hy
    have hy := List.mem_of_mem_take hy
    simp only [scripted, List.mem_cons, List.mem_replicate] at hy
    rcases hy with rfl | ⟨-, rfl⟩ <;> exact h

theorem scripted_last (n : Nat) (x : Inputs) (s : State) :
    ((scripted (n + 1) x s).env.pins :: (scripted (n + 1) x s).env.script)[n + 1]? = some x := by
  simp [scripted]

theorem witness_WindowMap : 5 ≤ (0x5#4).toNat ∧ 5 ≤ (0xF#4).toNat := by decide

theorem witness_DecodeInvertsEncode :
    Instr.wf (.program 0xFFFFFFFF) = true ∧ decodeCommand 0x05FFFFFFFF#40 = .ok (.program 0xFFFFFFFF) := by decide

theorem witness_FrequencyOperandIsTwosComplement :
    (0x80000000#32).getLsbD 31 = true ∧ (0x7FFFFFFF#32).getLsbD 31 = false := by decide

theorem witness_AssemblerRefusesOutOfRange :
    ((-2147483648 : Int) ≤ 2147483647 ∧ (-2147483649 : Int) < -2147483648 ∧ (2147483647 : Int) < 2147483648) ∧
    ((0 : Int) ≤ 4294967295 ∧ (-1 : Int) < 0 ∧ (4294967295 : Int) < 4294967296) ∧
    ((4294967295 : Nat) < 4294967296 ∧ (4294967296 : Nat) ≤ 4294967296) ∧
    (Mnemonic.setFb, Instr.setFb) ∈
      [(Mnemonic.setFa, Instr.setFa), (.setFb, .setFb), (.tune, .tune), (.setFreq, .setFreq)] :=
  ⟨by decide, by decide, by decide, .tail _ (.head _)⟩

theorem witness_TuningWordIsTheFloorFormula : (0 : Int) ≤ 125000000 ∧ (125000000 : Int) ≤ 125000000 := by decide

theorem witness_FoldBoundary : (62500000 : Int) ≤ 62500000 ∧ (62500000 : Int) < 62500001 := by decide

theorem witness_TuningWordRisesThenFalls :
    ((0 : Int) ≤ 0 ∧ (0 : Int) ≤ 62500000 ∧ (62500000 : Int) ≤ 62500000) ∧
    ((62500000 : Int) < 62500001 ∧ (62500001 : Int) ≤ 125000000 ∧ (125000000 : Int) ≤ 125000000) := by decide

theorem witness_AliasSymmetry : (0 : Int) ≤ 0 ∧ (0 : Int) ≤ 125000000 ∧ (125000000 : Int) ≤ 125000000 := by decide

theorem witness_OutputWithinOneStepOfRequest : (0 : Int) ≤ 62500000 ∧ (62500000 : Int) ≤ 62500000 := by decide

theorem witness_ChipLatchesTheFrame :
    ∃ c : Chip, c.pointer = 0 ∧ c.wClk = false ∧ c.fqUd = false ∧ c.working = ChipRegister.unknown :=
  ⟨⟨0x00, false, false, 0, ChipRegister.unknown, ChipRegister.unknown⟩, rfl, rfl, rfl, rfl⟩

/-- The chip's agreement at the end of a frame that the block has sent from a chip reset. -/
theorem witness_StepKeepsChipAgreement :
    ∃ (c : Chip) (s t : State), ChipAgrees c s ∧ InitGate s ∧ step s = .next t ∧ s.ddsValid = true :=
  ⟨⟨0xFF, true, true, 2, ⟨some 1, some 2, none, none, none⟩, ChipRegister.unknown⟩,
    { booted with
      ddsWord := 0x12345678, ddsValid := true
      trace := [.blockReset, .rstDds true, .rstDds false, .wclk false, .fqud false] ++ frame 0x12345678 }, _,
    ⟨by decide, fun _ => by decide, fun _ => by decide⟩, ⟨fun _ => rfl, fun _ => rfl⟩, rfl, rfl⟩

theorem witness_NopOnlyClearsErr : ({ booted with err := .illegal } : State).phase = .idle := rfl

theorem witness_SetFaCommitsOrRefuses :
    State.reset.phase = .idle ∧ (0 ≤ (0#32).toInt ∧ (0#32).toInt ≤ 124999900) ∧
    (0 ≤ (124999900#32).toInt ∧ (124999900#32).toInt ≤ 124999900) ∧
    (0xFFFFFFFF#32).toInt < 0 ∧ 124999900 < (124999901#32).toInt := by decide

theorem witness_SetFbCommitsOrRefuses :
    State.reset.phase = .idle ∧ (0 ≤ (0#32).toInt ∧ (0#32).toInt ≤ 124999900) ∧
    (0 ≤ (124999900#32).toInt ∧ (124999900#32).toInt ≤ 124999900) ∧
    (0xFFFFFFFF#32).toInt < 0 ∧ 124999900 < (124999901#32).toInt := by decide

theorem witness_TuneWritesTw :
    State.reset.phase = .idle ∧ (0 ≤ (0#32).toInt ∧ (0#32).toInt ≤ 125000000) ∧
    (0 ≤ (125000000#32).toInt ∧ (125000000#32).toInt ≤ 125000000) ∧
    (0xFFFFFFFF#32).toInt < 0 ∧ 125000000 < (125000001#32).toInt := by decide

theorem witness_ProgramSendsOneFrame :
    (booted.phase = .idle ∧ booted.chipInit = true) ∧ (State.reset.phase = .idle ∧ State.reset.chipInit = false) := by
  decide

theorem witness_SetFreqSendsTunedFrame :
    (State.reset.phase = .idle ∧ State.reset.chipInit = false) ∧ (booted.phase = .idle ∧ booted.chipInit = true) ∧
    ((0xFFFFFFFF#32).toInt < 0 ∧ 125000000 < (125000001#32).toInt) ∧
    (0 ≤ (0#32).toInt ∧ (0#32).toInt ≤ 125000000) ∧ (0 ≤ (125000000#32).toInt ∧ (125000000#32).toInt ≤ 125000000) := by
  decide

theorem witness_ResetChipEffect :
    ∃ s t u : State, s.phase = .idle ∧ exec .resetChip s = .next t ∧ exec .resetChip t = .next u :=
  ⟨State.reset, _, _, rfl, rfl, rfl⟩

/-- FA = 74,999 for the second clause, 124,925,001 for the third (VM11), 75,000 for the last. -/
theorem witness_FmRunStarts :
    (∃ s : State, s.phase = .idle ∧ s.chipInit = false) ∧
    (∃ s : State, s.phase = .idle ∧ s.chipInit = true ∧ s.fa.toInt < 75000) ∧
    (∃ s : State, s.phase = .idle ∧ s.chipInit = true ∧ 75000 ≤ s.fa.toInt ∧
      ∃ i : Fin 32, s.fa.toInt + s.fmOffset[i].toInt < 0 ∨ 125000000 < s.fa.toInt + s.fmOffset[i].toInt) ∧
    (∃ s : State, s.phase = .idle ∧ s.chipInit = true ∧ 75000 ≤ s.fa.toInt ∧
      ∀ i : Fin 32, 0 ≤ s.fa.toInt + s.fmOffset[i].toInt ∧ s.fa.toInt + s.fmOffset[i].toInt ≤ 125000000) :=
  ⟨⟨State.reset, rfl, rfl⟩, ⟨{ booted with fa := 74999 }, rfl, rfl, by decide⟩,
    ⟨{ booted with fa := 124925001, fmOffset := testFm }, rfl, rfl, by decide, 1, by decide⟩,
    ⟨{ booted with fa := 75000, fmOffset := lowFm }, rfl, rfl, by decide, by decide⟩⟩

theorem witness_FmRunStartsBelowTheTopMargin :
    ∃ s : State, OffsetsBounded s ∧ s.phase = .idle ∧ s.chipInit = true ∧ 75000 ≤ s.fa.toInt ∧
      s.fa.toInt ≤ 124925000 :=
  ⟨{ booted with fa := 124925000, fmOffset := testFm },
    show ∀ i : Fin 32, |(testFm[i]).toInt| ≤ 75000 by decide, rfl, rfl, by decide, by decide⟩

theorem witness_AmRunStarts :
    (booted.phase = .idle ∧ booted.chipInit = true) ∧ (State.reset.phase = .idle ∧ State.reset.chipInit = false) := by
  decide

theorem witness_SweepRunStarts :
    (booted.phase = .idle ∧ booted.chipInit = true) ∧ (State.reset.phase = .idle ∧ State.reset.chipInit = false) := by
  decide

theorem witness_NoInitStopsBusCommands : State.reset.phase = .idle ∧ State.reset.chipInit = false := by decide

theorem witness_IllegalWordOnlyWritesErr :
    State.reset.phase = .idle ∧ 0x0A ≤ (opOf 0x0A00000000).toNat ∧
    (opOf illegalWord ∈ [0x00#8, 0x01#8, 0x07#8, 0x08#8, 0x09#8] ∧ opdOf illegalWord ≠ 0) := by decide

theorem witness_ErrorsArePrecise :
    ∃ s t : State, s.phase = .idle ∧ issueCommand illegalWord s = .next t ∧ t.phase = .idle ∧ t.err ≠ .ok :=
  ⟨State.reset, raiseError .illegal State.reset, rfl, rfl, rfl, by decide⟩

theorem witness_FmLoopStep : (inPhase .fmLoop).phase = .fmLoop := rfl
theorem witness_AmLoopStep : (inPhase .amLoop).phase = .amLoop := rfl
theorem witness_ReleaseWaitStep : (inPhase .releaseWait).phase = .releaseWait := rfl

theorem witness_SweepRampStep :
    ({ inPhase .sweepRamp with swK := 255 } : State).phase = .sweepRamp ∧
    ({ inPhase .sweepRamp with swK := 255 } : State).swK.toNat ≤ 255 := by decide

theorem witness_SweepEndStep : (inPhase .sweepEnd).phase = .sweepEnd := rfl

theorem witness_RampValues : (254 : Nat) ≤ 255 ∧ (255 : Nat) ≤ 255 ∧ 0 < (1#32).toNat := by decide

theorem widestSweep_inv : Inv widestSweep := by constructor <;> decide

theorem widestSweep_regs : SweepRegs widestSweep := ⟨fun _ => by decide, fun _ => by decide⟩

theorem witness_SweepFrequenciesInDomain :
    ∃ s : State, Inv s ∧ SweepRegs s ∧ (s.phase = .sweepRamp ∨ s.phase = .sweepEnd) :=
  ⟨widestSweep, widestSweep_inv, widestSweep_regs, .inl rfl⟩

theorem witness_FmRunWalksTheTable :
    ∃ s : State, s.phase = .fmLoop ∧ s.idx = 0 ∧ Upcoming 33 (fun x => x.rst = false ∧ x.keyHeld = false) s :=
  ⟨scripted 32 Inputs.quiet (inPhase .fmLoop), rfl, rfl, upcoming_scripted 32 _ _ _ ⟨rfl, rfl⟩⟩

theorem witness_AmRunWalksTheTable :
    ∃ s : State, s.phase = .amLoop ∧ s.idx = 0 ∧ Upcoming 33 (fun x => x.rst = false ∧ x.keyHeld = false) s :=
  ⟨scripted 32 Inputs.quiet (inPhase .amLoop), rfl, rfl, upcoming_scripted 32 _ _ _ ⟨rfl, rfl⟩⟩

theorem witness_SweepRampIs257Frames :
    ∃ (s : State) (x : Inputs), s.phase = .sweepRamp ∧ s.swK = 0 ∧ Upcoming 257 (fun x => x.rst = false) s ∧
      (s.env.pins :: s.env.script)[256]? = some x ∧ x.keyReady = true :=
  ⟨scripted 256 { Inputs.quiet with keyReady := true } (inPhase .sweepRamp), { Inputs.quiet with keyReady := true },
    rfl, rfl, upcoming_scripted 256 _ _ _ rfl, scripted_last 255 _ _, rfl⟩

theorem witness_StepTakesTheEnabledStep :
    (∃ s : State, s.env.pins.rst = true) ∧
    (∃ s : State, s.env.pins.rst = false ∧ s.phase = .idle ∧ s.env.pins.cmdValid = false) ∧
    (∃ s : State, s.env.pins.rst = false ∧ s.phase = .idle ∧ s.env.pins.cmdValid = true) ∧
    (∃ s : State, s.env.pins.rst = false ∧ s.phase ≠ .idle) :=
  ⟨⟨{ State.reset with env := ⟨{ Inputs.quiet with rst := true }, [], 0⟩ }, rfl⟩, ⟨State.reset, rfl, rfl, rfl⟩,
    ⟨presenting illegalWord State.reset, rfl, rfl, rfl⟩, ⟨inPhase .fmLoop, rfl, (by decide)⟩⟩

/-- A state in which the block takes SET_FA 5000 (VC9). -/
theorem witness_StepRunsTheDecodedCommand :
    Issues (presenting 0x0200001388 State.reset) (.setFa 5000) ∧ decodeTableWord 40 0x0200001388 = some (.setFa 5000) :=
  ⟨⟨rfl, rfl, rfl, by decide⟩, by decide⟩

theorem witness_EnvironmentAfterAStep :
    (∃ (s : State) (x : Inputs), x = s.env.script.headD (freeInputs s.env.draws) ∧ s.env.pins.cmdValid = false) ∧
    (∃ (s : State) (x : Inputs), x = s.env.script.headD (freeInputs s.env.draws) ∧ s.env.pins.cmdValid = true) :=
  ⟨⟨State.reset, _, rfl, rfl⟩, ⟨presenting illegalWord (inPhase .fmLoop), _, rfl, rfl⟩⟩

theorem witness_BusyBlockHoldsTheCommand : (inPhase .amLoop).phase ≠ .idle ∧ (inPhase .amLoop).env.pins.rst = false := by
  decide

theorem witness_OnlyTheNamedPhasesSampleKeys :
    (State.reset.phase = .idle ∨ State.reset.phase = .sweepRamp) ∧
    ((inPhase .releaseWait).phase = .fmLoop ∨ (inPhase .releaseWait).phase = .amLoop ∨
      (inPhase .releaseWait).phase = .releaseWait) ∧
    (inPhase .sweepEnd).phase = .sweepEnd := by decide

/-- Each of the five registers is changed by some step, and DDS_VALID by one that leaves DDS_WORD at 0. -/
theorem witness_OnlyTheNamedCommandsWrite :
    (∃ s t : State, step s = .next t ∧ s.env.pins.rst = false ∧ t.fa ≠ s.fa) ∧
    (∃ s t : State, step s = .next t ∧ s.env.pins.rst = false ∧ t.fb ≠ s.fb) ∧
    (∃ s t : State, step s = .next t ∧ s.env.pins.rst = false ∧ t.tw ≠ s.tw) ∧
    (∃ s t : State, step s = .next t ∧ s.env.pins.rst = false ∧ t.chipInit ≠ s.chipInit) ∧
    (∃ s t : State, step s = .next t ∧ s.env.pins.rst = false ∧ t.ddsWord ≠ s.ddsWord) ∧
    (∃ s t : State, step s = .next t ∧ s.env.pins.rst = false ∧ t.ddsValid ≠ s.ddsValid ∧ t.ddsWord = s.ddsWord) :=
  ⟨⟨presenting 0x0200001388 State.reset, _, rfl, rfl, (by decide)⟩,
    ⟨presenting 0x0300001388 State.reset, _, rfl, rfl, (by decide)⟩,
    ⟨presenting 0x0400001388 State.reset, _, rfl, rfl, (by decide)⟩,
    ⟨presenting 0x0100000000 State.reset, _, rfl, rfl, (by decide)⟩,
    ⟨presenting 0x0512345678 booted, _, rfl, rfl, (by decide)⟩,
    ⟨presenting 0x0500000000 booted, _, rfl, rfl, (by decide), (by decide)⟩⟩

theorem witness_NoStepWritesTheTables :
    ∃ s t : State, step s = .next t ∧ s.env.pins.rst = true :=
  ⟨{ inPhase .fmLoop with env := ⟨{ Inputs.quiet with rst := true }, [], 0⟩ }, _, rfl, rfl⟩

theorem witness_PhaseMoves :
    ∃ s t : State, step s = .next t ∧ s.env.pins.rst = false ∧ t.phase ≠ s.phase :=
  ⟨presenting 0x0900000000 booted, _, rfl, rfl, (by decide)⟩

theorem witness_ErrIsWrittenAtCompletion :
    (∃ s t : State, step s = .next t ∧ s.env.pins.rst = false ∧ t.phase ≠ .idle) ∧
    (∃ s t : State, step s = .next t ∧ s.env.pins.rst = false ∧ s.phase ≠ .idle ∧ t.phase = .idle) :=
  ⟨⟨presenting 0x0800000000 booted, _, rfl, rfl, (by decide)⟩,
    ⟨inPhase .releaseWait, _, rfl, rfl, (by decide), rfl⟩⟩

theorem witness_OneKickPerLoopStep : ∃ s t : State, step s = .next t ∧ s.env.pins.rst = false ∧ s.phase ≠ .idle :=
  ⟨inPhase .releaseWait, _, rfl, rfl, (by decide)⟩

theorem witness_NoStrobeBeforeChipReset :
    ∃ s t : State, InitGate s ∧ s.chipInit = false ∧ step s = .next t ∧ s.env.pins.cmdValid = true :=
  ⟨presenting 0x0512345678 State.reset, _, ⟨fun h => absurd rfl h, (by intro h; cases h)⟩, rfl, rfl, rfl⟩

theorem witness_StepKeepsInv : ∃ s t : State, Inv s ∧ step s = .next t ∧ s.phase = .sweepRamp :=
  ⟨widestSweep, _, widestSweep_inv, rfl, rfl⟩

theorem witness_EveryRunIsSafe : Inv widestSweep := widestSweep_inv

theorem witness_StepKeepsLoopInvariants :
    ∃ s t : State, step s = .next t ∧ InitGate s ∧ FreshTables s ∧ SweepRegs s ∧ s.phase = .sweepRamp :=
  ⟨widestSweep, _, rfl, ⟨fun _ => rfl, fun _ => rfl⟩, ⟨(by intro h; cases h), (by intro h; cases h)⟩, widestSweep_regs,
    rfl⟩

theorem witness_StepKeepsLinesFollowTrace : ∃ s t : State, LinesFollowTrace s ∧ step s = .next t ∧ s.lines.sync = true :=
  ⟨{ booted with lines := { Lines.reset with sync := true }, trace := [.blockReset, .sync true] }, _,
    (by constructor <;> decide), rfl, rfl⟩

end Sys2Proof.Tests
end

section
/-! PROOFS. What each step does, said once: which step is enabled, the inversion lemma of the issue step, and the whole
next state of each phase's loop step. -/

namespace Sys2Proof.Machine

open Sys2Proof.Safety

/-! ### Which step is enabled -/

section
variable {s : State}

theorem step_of_rst (hrst : s.env.pins.rst = true) : step s = .next (advanceInputs (blockReset s)) := by
  simp [step, sequencerStep, hrst]

theorem step_of_no_command (hrst : s.env.pins.rst = false) (hidle : s.phase = .idle)
    (hcmd : s.env.pins.cmdValid = false) : step s = .next (advanceInputs s) := by
  simp [step, sequencerStep, State.cmdReady, hrst, hidle, hcmd]

theorem step_of_command {t : State} (hrst : s.env.pins.rst = false) (hidle : s.phase = .idle)
    (hcmd : s.env.pins.cmdValid = true) (ht : issueCommand s.env.pins.cmd (acceptCommand s) = .next t) :
    step s = .next (advanceInputs t) := by
  simp [step, sequencerStep, State.cmdReady, hrst, hidle, hcmd, ht, thenAdvance]

theorem step_of_busy (hrst : s.env.pins.rst = false) (hbusy : s.phase ≠ .idle) :
    step s = .next (advanceInputs (runPhase s.env.pins.keyHeld s.env.pins.keyReady s)) := by
  simp [step, sequencerStep, State.cmdReady, hrst, hbusy]
end

/-! ### The issue step -/

/-- What the issue step of a command does to a state, one constructor per way it can end (R83). -/
inductive IssueEffect (s : State) : Instr → State → Prop where
  | nop : IssueEffect s .nop (complete .ok s)
  /-- The command raises an error, before any other effect (R232). -/
  | refused (i : Instr) (c : ErrCode) (hc : c ≠ .ok) : IssueEffect s i (complete c s)
  | setFa (f : Word) (hf : inCommitRange (signedOperand f)) :
      IssueEffect s (.setFa f) (complete .ok { s with fa := f })
  | setFb (f : Word) (hf : inCommitRange (signedOperand f)) :
      IssueEffect s (.setFb f) (complete .ok { s with fb := f })
  | tune (f : Word) (hf : inDomain (signedOperand f)) :
      IssueEffect s (.tune f) (complete .ok { s with tw := tuningWord (signedOperand f) })
  | program (w : Word) (hinit : s.chipInit = true) : IssueEffect s (.program w) (complete .ok (sendFrame w s))
  | setFreq (f : Word) (hinit : s.chipInit = true) (hf : inDomain (signedOperand f)) :
      IssueEffect s (.setFreq f) (complete .ok (setF (signedOperand f) s))
  | resetChip : IssueEffect s .resetChip
      (complete .ok { emitAll chipResetEvents s with ddsWord := 0, ddsValid := false, chipInit := true })
  | fmRun (hinit : s.chipInit = true) (hlow : Config.fmMinCarrier ≤ frequencyOf s.fa)
      (hf : ∀ i : Fin 32, inDomain (fmSum s i)) :
      IssueEffect s .fmRun { emit (.intDis true) { s with fmtw := fmTable s, idx := 0 } with phase := .fmLoop }
  | amRun (hinit : s.chipInit = true) :
      IssueEffect s .amRun
        { emitAll [.ampEn true, .intDis true] { s with ctw := tuningWord (frequencyOf s.fa) } with
          idx := 0, phase := .amLoop }
  | sweepRun (hinit : s.chipInit = true) :
      IssueEffect s .sweepRun
        { s with
          swLow := (sweepEndpoints s).1, swSpan := (sweepEndpoints s).2 - (sweepEndpoints s).1
          swK := 0, phase := .sweepRamp }

/-- Every issue step ends in one of these ways. -/
theorem exec_effect {i : Instr} {s t : State} (h : exec i s = .next t) : IssueEffect s i t := by
  cases i with
  | nop => cases h; exact .nop
  | resetChip => cases h; exact .resetChip
  | setFa f =>
    simp only [exec, execSetFa] at h
    split at h <;> cases h
    · exact .setFa f ‹_›
    · exact .refused _ _ (by decide)
  | setFb f =>
    simp only [exec, execSetFb] at h
    split at h <;> cases h
    · exact .setFb f ‹_›
    · exact .refused _ _ (by decide)
  | tune f =>
    simp only [exec, execTune] at h
    split at h <;> cases h
    · exact .tune f ‹_›
    · exact .refused _ _ (by decide)
  | program w =>
    simp only [exec, execProgram] at h
    split at h <;> cases h
    · exact .program w ‹_›
    · exact .refused _ _ (by decide)
  | setFreq f =>
    simp only [exec, execSetFreq] at h
    split at h
    · split at h <;> cases h
      · exact .setFreq f ‹_› ‹_›
      · exact .refused _ _ (by decide)
    · cases h; exact .refused _ _ (by decide)
  | fmRun =>
    simp only [exec, execFmRun] at h
    split at h
    · split at h
      · cases h; exact .refused _ _ (by decide)
      · split at h <;> cases h
        · exact .fmRun ‹_› (not_lt.mp ‹_›) ‹_›
        · exact .refused _ _ (by decide)
    · cases h; exact .refused _ _ (by decide)
  | amRun =>
    simp only [exec, execAmRun] at h
    split at h <;> cases h
    · exact .amRun ‹_›
    · exact .refused _ _ (by decide)
  | sweepRun =>
    simp only [exec, execSweepRun] at h
    split at h <;> cases h
    · exact .sweepRun ‹_›
    · exact .refused _ _ (by decide)

/-- Everything a step without reset can be: a wait, the issue step of a command, that of an illegal word, or the loop
step of the phase. -/
theorem step_cases_of_no_reset {s t : State} (h : step s = .next t) (hrst : s.env.pins.rst = false) :
    (s.phase = .idle ∧ t = advanceInputs s) ∨
    (∃ i u, Issues s i ∧ IssueEffect (acceptCommand s) i u ∧ t = advanceInputs u) ∨
    (s.phase = .idle ∧ t = advanceInputs (complete .illegal (acceptCommand s))) ∨
    (s.phase ≠ .idle ∧ t = advanceInputs (runPhase s.env.pins.keyHeld s.env.pins.keyReady s)) := by
  obtain ⟨hr, -⟩ | ⟨-, hp, -, ht⟩ | ⟨-, hp, hv, i, u, hi, hu, ht⟩ | ⟨-, hp, -, -, ht⟩ | ⟨-, hp, ht⟩ := step_cases h
  · simp [hrst] at hr
  · exact .inl ⟨hp, ht⟩
  · exact .inr (.inl ⟨i, u, ⟨hrst, hp, hv, hi⟩, exec_effect hu, ht⟩)
  · exact .inr (.inr (.inl ⟨hp, ht⟩))
  · exact .inr (.inr (.inr ⟨hp, ht⟩))

/-! ### The loop steps -/

section
variable (keyHeld keyReady : Bool) (s : State)

/-- One FM_LOOP step (R152). -/
theorem runFmLoop_eq :
    runFmLoop keyHeld s =
      { s with
        ddsWord := tableGet s.fmtw s.idx, ddsValid := true, idx := s.idx + 1
        phase := if keyHeld then .releaseWait else s.phase
        lines := { s.lines with
          d := 0x00, wClk := false, fqUd := false, intDis := if keyHeld then false else s.lines.intDis }
        trace := s.trace ++ (frame (tableGet s.fmtw s.idx) ++ .wdt :: if keyHeld then [.intDis false] else []) } := by
  cases keyHeld <;> simp [runFmLoop, sendFrame_eq, emit, advanceIdx, Lines.after]

/-- One AM_LOOP step (R162). -/
theorem runAmLoop_eq :
    runAmLoop keyHeld s =
      { s with
        ddsWord := s.ctw, ddsValid := true, idx := s.idx + 1
        phase := if keyHeld then .releaseWait else s.phase
        lines := { s.lines with
          d := 0x00, wClk := false, fqUd := false, ampDuty := tableGet s.amTable s.idx
          ampEn := if keyHeld then false else s.lines.ampEn, intDis := if keyHeld then false else s.lines.intDis }
        trace := s.trace ++ (frame s.ctw ++
          .duty (tableGet s.amTable s.idx) :: .wdt :: if keyHeld then [.ampEn false, .intDis false] else []) } := by
  cases keyHeld <;> simp [runAmLoop, sendFrame_eq, emitAll_eq, advanceIdx, Lines.after]

/-- One RELEASE_WAIT step (R171). -/
theorem runReleaseWait_eq :
    runReleaseWait keyHeld s =
      { s with
        phase := if keyHeld then s.phase else .idle
        err := if keyHeld then s.err else .ok
        trace := s.trace ++ .wdt :: if keyHeld then [] else [.flush] } := by
  cases keyHeld <;> simp [runReleaseWait, complete, emit, Lines.after]

/-- One SWEEP_RAMP step (R182). -/
theorem runSweepRamp_eq :
    runSweepRamp s =
      { s with
        ddsWord := tuningWord (rampValue s.swLow s.swSpan s.swK.toNat), ddsValid := true
        swK := s.swK + 1
        phase := if (s.swK + 1).toNat = Config.rampSteps then .sweepEnd else s.phase
        lines := { s.lines with
          d := 0x00, wClk := false, fqUd := false, sync := if s.swK = 0 then true else s.lines.sync }
        trace := s.trace ++ ((if s.swK = 0 then [.sync true] else []) ++
          (frame (tuningWord (rampValue s.swLow s.swSpan s.swK.toNat)) ++ [.wdt])) } := by
  by_cases hk : s.swK = 0 <;> by_cases hend : (s.swK + 1).toNat = Config.rampSteps <;>
    simp only [runSweepRamp, setF, sendFrame_eq, emit, Lines.after, hk, hend, if_true, if_false] <;> simp_all

/-- One SWEEP_END step (R184). -/
theorem runSweepEnd_eq :
    runSweepEnd keyReady s =
      { s with
        ddsWord := tuningWord (frequencyOf s.swLow), ddsValid := true
        swK := if keyReady then s.swK else 0
        phase := if keyReady then .idle else .sweepRamp
        err := if keyReady then .ok else s.err
        lines := { s.lines with d := 0x00, wClk := false, fqUd := false, sync := false }
        trace := s.trace ++ ([.sync false] ++
          (frame (tuningWord (frequencyOf s.swLow)) ++ .wdt :: if keyReady then [.flush] else [])) } := by
  cases keyReady <;> simp [runSweepEnd, setF, sendFrame_eq, emit, complete, Lines.after]
end

end Sys2Proof.Machine
end

section
/-! PROOFS. The environment takes no part in what the block does in a step, and the keypad levels enter a step only
through the loop step of the phase (R46). -/

namespace Sys2Proof.Machine

open Sys2Proof.Safety

/-- `s` with its environment changed by `f`. -/
def mapEnv (f : Env → Env) (s : State) : State := { s with env := f s.env }

/-- An outcome with its next state, if any, changed by `f`. -/
def mapNext (f : State → State) : Host.Outcome State Fault Refusal → Host.Outcome State Fault Refusal
  | .next s => .next (f s)
  | .fault r => .fault r
  | .refused r => .refused r

theorem sendFrame_mapEnv (w : Word) (f : Env → Env) (s : State) :
    sendFrame w (mapEnv f s) = mapEnv f (sendFrame w s) := by
  simp [sendFrame_eq, mapEnv]

/-- No guard and no effect of a command reads the environment. -/
theorem exec_mapEnv (i : Instr) (f : Env → Env) (s : State) : exec i (mapEnv f s) = mapNext (mapEnv f) (exec i s) := by
  cases i with
  | nop => rfl
  | setFa | setFb | tune | fmRun | sweepRun =>
    simp only [exec, execSetFa, execSetFb, execTune, execFmRun, execSweepRun, apply_ite (mapNext (mapEnv f))]
    rfl
  | program | setFreq =>
    simp only [exec, execProgram, execSetFreq, setF, sendFrame_mapEnv, apply_ite (mapNext (mapEnv f))]
    rfl
  | resetChip | amRun =>
    simp only [exec, execResetChip, execAmRun, emitAll_eq, apply_ite (mapNext (mapEnv f))]
    rfl

theorem issueCommand_mapEnv (w : Command) (f : Env → Env) (s : State) :
    issueCommand w (mapEnv f s) = mapNext (mapEnv f) (issueCommand w s) := by
  unfold issueCommand
  split
  · exact exec_mapEnv _ f s
  · rfl

theorem runPhase_mapEnv (keyHeld keyReady : Bool) (f : Env → Env) (s : State) :
    runPhase keyHeld keyReady (mapEnv f s) = mapEnv f (runPhase keyHeld keyReady s) := by
  cases hp : s.phase with
  | idle => simp [runPhase, mapEnv, hp]
  | fmLoop => simp [runPhase, mapEnv, hp, runFmLoop_eq]
  | amLoop => simp [runPhase, mapEnv, hp, runAmLoop_eq]
  | sweepRamp => simp [runPhase, mapEnv, hp, runSweepRamp_eq]
  | sweepEnd => simp [runPhase, mapEnv, hp, runSweepEnd_eq]
  | releaseWait => simp [runPhase, mapEnv, hp, runReleaseWait_eq]

/-- The environment with other levels on the keypad inputs. -/
def Env.setKeys (held ready : Bool) (e : Env) : Env :=
  { e with pins := { e.pins with keyHeld := held, keyReady := ready } }

theorem withKeys_eq_mapEnv (held ready : Bool) (s : State) : withKeys held ready s = mapEnv (Env.setKeys held ready) s :=
  rfl

/-- Driving the next inputs replaces both keypad levels. -/
theorem advanceInputs_setKeys (held ready : Bool) (s : State) :
    advanceInputs (mapEnv (Env.setKeys held ready) s) = advanceInputs s := by
  cases hv : s.env.pins.cmdValid <;>
    simp [advanceInputs, mapEnv, Env.setKeys, Env.advance, Env.sample, Inputs.holdCommand, hv]

theorem step_withKeys_of_rst {held ready : Bool} {s : State} (hrst : s.env.pins.rst = true) :
    step (withKeys held ready s) = step s := by
  rw [step_of_rst hrst, step_of_rst (s := withKeys held ready s) hrst]
  exact congrArg _ (advanceInputs_setKeys held ready (blockReset s))

theorem step_withKeys_of_idle {held ready : Bool} {s : State} (hidle : s.phase = .idle) :
    step (withKeys held ready s) = step s := by
  cases hrst : s.env.pins.rst with
  | true => exact step_withKeys_of_rst hrst
  | false =>
    cases hcmd : s.env.pins.cmdValid with
    | false =>
      rw [step_of_no_command hrst hidle hcmd, step_of_no_command (s := withKeys held ready s) hrst hidle hcmd]
      exact congrArg _ (advanceInputs_setKeys held ready s)
    | true =>
      obtain ⟨t, ht, -⟩ := issueCommand_next s.env.pins.cmd (acceptCommand s)
      have hkeys : issueCommand s.env.pins.cmd (mapEnv (Env.setKeys held ready) (acceptCommand s)) =
          .next (mapEnv (Env.setKeys held ready) t) := by
        rw [issueCommand_mapEnv, ht]
        rfl
      rw [step_of_command hrst hidle hcmd ht, step_of_command (s := withKeys held ready s) hrst hidle hcmd hkeys,
        advanceInputs_setKeys]

theorem step_withKeys_of_busy {held ready : Bool} {s : State} (hrst : s.env.pins.rst = false) (hbusy : s.phase ≠ .idle) :
    step (withKeys held ready s) = .next (advanceInputs (runPhase held ready s)) := by
  rw [step_of_busy (s := withKeys held ready s) hrst hbusy, withKeys_eq_mapEnv, runPhase_mapEnv, advanceInputs_setKeys]
  rfl

/-- Two settings of the keypad inputs give one step where they give one loop step. -/
theorem step_withKeys_congr {held ready held' ready' : Bool} {s : State}
    (hrun : runPhase held ready s = runPhase held' ready' s) :
    step (withKeys held ready s) = step (withKeys held' ready' s) := by
  cases hrst : s.env.pins.rst with
  | true => rw [step_withKeys_of_rst hrst, step_withKeys_of_rst hrst]
  | false =>
    by_cases hp : s.phase = .idle
    · rw [step_withKeys_of_idle hp, step_withKeys_of_idle hp]
    · rw [step_withKeys_of_busy hrst hp, step_withKeys_of_busy hrst hp, hrun]

/-- What the environment drives next is the script's next entry, or free levels where there is none. -/
theorem Env.sample_eq_headD (e : Env) : e.sample = e.script.headD (freeInputs e.draws) := by
  unfold Env.sample
  cases e.script <;> rfl

end Sys2Proof.Machine
end

section
/-! PROOFS. The events of a step, and what they do to the DDS bus, the record of it, the chip and the lines. -/

namespace Sys2Proof.Machine

/-- `t` is `s` after emitting `es`: they are appended to the trace, and the lines stand where they leave them (R45). -/
structure Emits (es : List Event) (s t : State) : Prop where
  trace : t.trace = s.trace ++ es
  lines : t.lines = es.foldl Lines.after s.lines

/-- An event that no input of the DDS chip sees. -/
def Event.offBus : Event → Bool
  | .sync _ | .ampEn _ | .intDis _ | .duty _ | .wdt | .flush => true
  | .d _ | .wclk _ | .fqud _ | .rstDds _ | .blockReset => false

/-- What a step that emits `es` does to the DDS bus, the record of it (R24) and CHIP_INIT. -/
inductive BusEffect (s t : State) : List Event → Prop where
  /-- Nothing on the bus, and the record stays. -/
  | none (es : List Event) (hes : es.all Event.offBus = true) (hword : t.ddsWord = s.ddsWord)
      (hvalid : t.ddsValid = s.ddsValid) (hinit : t.chipInit = s.chipInit) : BusEffect s t es
  /-- The frame of the word that is then on record; only a chip-reset block or a running loop sends one (R271). -/
  | frame (before after : List Event) (hbefore : before.all Event.offBus = true) (hafter : after.all Event.offBus = true)
      (hready : s.phase ≠ .idle ∨ s.chipInit = true) (hvalid : t.ddsValid = true) (hinit : t.chipInit = s.chipInit) :
      BusEffect s t (before ++ (Machine.frame t.ddsWord ++ after))
  /-- The chip-reset sequence (R131). -/
  | chipReset (hvalid : t.ddsValid = false) : BusEffect s t chipResetEvents
  /-- A block reset (R261). -/
  | blockReset (hvalid : t.ddsValid = false) (hinit : t.chipInit = false) : BusEffect s t [.blockReset]

/-- A frame leaves the bus and both strobes idle and every other line as it was (R107). -/
@[simp] theorem foldl_after_frame (w : Word) (l : Lines) :
    (frame w).foldl Lines.after l = { l with d := 0x00, wClk := false, fqUd := false } := rfl

/-- A frame holds no watchdog kick. -/
@[simp] theorem count_wdt_frame (w : Word) : (frame w).count .wdt = 0 :=
  List.count_eq_zero.mpr fun h => by simpa using mem_frame h

/-- A command that sends one frame. -/
theorem sendFrame_emits (w : Word) {s : State} (hinit : s.chipInit = true) :
    ∃ es, Emits es s (complete .ok (sendFrame w s)) ∧ BusEffect s (complete .ok (sendFrame w s)) es ∧
      es.count .wdt = 0 :=
  ⟨[] ++ (frame w ++ []), ⟨by simp, by simp⟩,
    .frame (t := complete .ok (sendFrame w s)) [] [] rfl rfl (.inr hinit) rfl (by simp), by simp⟩

/-- The events of an issue step: no kick among them (R246). -/
theorem IssueEffect.emits {s t : State} {i : Instr} (h : IssueEffect s i t) :
    ∃ es, Emits es s t ∧ BusEffect s t es ∧ es.count .wdt = 0 := by
  cases h with
  | nop | refused | setFa | setFb | tune | sweepRun =>
    exact ⟨[], ⟨by simp, rfl⟩, .none _ rfl rfl rfl rfl, rfl⟩
  | program w hinit => exact sendFrame_emits w hinit
  | setFreq f hinit => exact sendFrame_emits _ hinit
  | resetChip => exact ⟨chipResetEvents, ⟨by simp [emitAll_eq], by simp [emitAll_eq]⟩, .chipReset rfl, rfl⟩
  | fmRun => exact ⟨[.intDis true], ⟨rfl, rfl⟩, .none _ rfl rfl rfl rfl, rfl⟩
  | amRun => exact ⟨[.ampEn true, .intDis true], ⟨by simp [emitAll_eq], rfl⟩, .none _ rfl rfl rfl rfl, rfl⟩

/-- The events of a loop step: one kick among them (R246). -/
theorem runPhase_emits (keyHeld keyReady : Bool) {s : State} (hbusy : s.phase ≠ .idle) :
    ∃ es, Emits es s (runPhase keyHeld keyReady s) ∧ BusEffect s (runPhase keyHeld keyReady s) es ∧
      es.count .wdt = 1 := by
  cases hp : s.phase with
  | idle => exact absurd hp hbusy
  | fmLoop =>
    simp only [runPhase, hp, runFmLoop_eq]
    refine ⟨_, ⟨rfl, ?_⟩, .frame [] _ rfl ?_ (.inl hbusy) rfl rfl, ?_⟩ <;> cases keyHeld <;>
      simp [Lines.after, Event.offBus]
  | amLoop =>
    simp only [runPhase, hp, runAmLoop_eq]
    refine ⟨_, ⟨rfl, ?_⟩, .frame [] _ rfl ?_ (.inl hbusy) rfl rfl, ?_⟩ <;> cases keyHeld <;>
      simp [Lines.after, Event.offBus]
  | sweepRamp =>
    simp only [runPhase, hp, runSweepRamp_eq]
    refine ⟨_, ⟨rfl, ?_⟩, .frame _ [.wdt] ?_ rfl (.inl hbusy) rfl rfl, ?_⟩ <;>
      by_cases hk : s.swK = 0#9 <;> simp [hk, Lines.after, Event.offBus]
  | sweepEnd =>
    simp only [runPhase, hp, runSweepEnd_eq]
    refine ⟨_, ⟨rfl, ?_⟩, .frame [.sync false] _ rfl ?_ (.inl hbusy) rfl rfl, ?_⟩ <;> cases keyReady <;>
      simp [Lines.after, Event.offBus]
  | releaseWait =>
    simp only [runPhase, hp, runReleaseWait_eq]
    refine ⟨_, ⟨rfl, ?_⟩, .none _ ?_ rfl rfl rfl, ?_⟩ <;> cases keyHeld <;> simp [Lines.after, Event.offBus]

/-- The environment is nothing on the bus. -/
theorem BusEffect.mapEnv {s t : State} {es : List Event} (h : BusEffect s t es) (f g : Env → Env) :
    BusEffect (Machine.mapEnv f s) (Machine.mapEnv g t) es := by
  cases h with
  | none _ hes hword hvalid hinit => exact .none _ hes hword hvalid hinit
  | frame before after hbefore hafter hready hvalid hinit => exact .frame before after hbefore hafter hready hvalid hinit
  | chipReset hvalid => exact .chipReset hvalid
  | blockReset hvalid hinit => exact .blockReset hvalid hinit

/-- Every step emits events, with what they do to the bus; without reset, one kick per loop step and none in IDLE. -/
theorem step_emits {s t : State} (h : step s = .next t) :
    ∃ es, Emits es s t ∧ BusEffect s t es ∧
      (s.env.pins.rst = false → es.count .wdt = if s.phase = .idle then 0 else 1) := by
  cases hrst : s.env.pins.rst with
  | false =>
    obtain ⟨hp, rfl⟩ | ⟨i, u, hi, hu, rfl⟩ | ⟨hp, rfl⟩ | ⟨hp, rfl⟩ := step_cases_of_no_reset h hrst
    · exact ⟨[], ⟨by simp, rfl⟩, .none _ rfl rfl rfl rfl, by simp [hp]⟩
    · obtain ⟨es, he, hb, hk⟩ := hu.emits
      exact ⟨es, ⟨he.trace, he.lines⟩, hb.mapEnv (fun _ => s.env) Env.advance, by simp [hi.phase, hk]⟩
    · exact ⟨[], ⟨by simp, rfl⟩, .none _ rfl rfl rfl rfl, by simp [hp]⟩
    · obtain ⟨es, he, hb, hk⟩ := runPhase_emits s.env.pins.keyHeld s.env.pins.keyReady hp
      exact ⟨es, ⟨he.trace, he.lines⟩, hb.mapEnv (fun _ => s.env) Env.advance, by simp [hp, hk]⟩
  | true =>
    obtain ⟨-, rfl⟩ | ⟨hr, -⟩ | ⟨hr, -⟩ | ⟨hr, -⟩ | ⟨hr, -⟩ := step_cases h
    · exact ⟨[.blockReset], ⟨rfl, rfl⟩, .blockReset rfl rfl, nofun⟩
    all_goals simp [hrst] at hr

/-! ### The chip and the lines over the events of a step -/

theorem Chip.see_offBus (c : Chip) {e : Event} (h : e.offBus = true) : c.see e = c := by
  cases e with
  | sync | ampEn | intDis | duty | wdt | flush => rfl
  | d | wclk | fqud | rstDds | blockReset => cases h

/-- The chip does not see the events of the other lines. -/
theorem Chip.seeAll_offBus (c : Chip) {es : List Event} (h : es.all Event.offBus = true) : c.seeAll es = c := by
  induction es with
  | nil => rfl
  | cons e es ih =>
    rw [List.all_cons, Bool.and_eq_true] at h
    obtain ⟨he, hes⟩ := h
    rw [Chip.seeAll_cons, Chip.see_offBus c he, ih hes]

/-- A chip with idle strobes that waits for W0 holds the word after its frame, and waits for W0 again (R107, R110). -/
theorem Chip.seeAll_frame (w : Word) {c : Chip} (hclk : c.wClk = false) (hupd : c.fqUd = false) (hptr : c.pointer = 0) :
    c.seeAll (frame w) = ⟨0x00, false, false, 0, wordBytes w, wordBytes w⟩ := by
  obtain ⟨bus, wClk, fqUd, pointer, input, working⟩ := c
  subst hclk hupd hptr
  simp [frame, frameBytes, strobeByte, Chip.see, Chip.load, Chip.update, wordBytes]

/-- After the chip-reset sequence the strobes are idle and the chip waits for W0, holding nothing known (R131, U14). -/
theorem Chip.seeAll_chipReset (c : Chip) :
    c.seeAll chipResetEvents = ⟨c.bus, false, false, 0, ChipRegister.unknown, ChipRegister.unknown⟩ := rfl

end Sys2Proof.Machine

namespace Sys2Proof.Safety

open Sys2Proof.Machine

/-- The chip's agreement is kept by whatever a step does to the bus. -/
theorem ChipAgrees.of_busEffect {c : Chip} {s t : State} {es : List Event} (hc : ChipAgrees c s) (hgate : InitGate s)
    (hemits : Emits es s t) (hbus : BusEffect s t es) : ChipAgrees c t := by
  obtain ⟨⟨hclk, hupd⟩, hwhole, hlatched⟩ := hc
  have hsee : c.seeAll t.trace = (c.seeAll s.trace).seeAll es := by rw [hemits.trace, Chip.seeAll_append]
  cases hbus with
  | none es hes hword hvalid hinit =>
    rw [Chip.seeAll_offBus _ hes] at hsee
    exact ⟨by simp [hsee, hclk, hupd], by simpa [hsee, hinit] using hwhole,
      by simpa [hsee, hinit, hvalid, hword] using hlatched⟩
  | frame before after hbefore hafter hready hvalid hinit =>
    have hs : s.chipInit = true := hready.elim hgate.loops id
    rw [Chip.seeAll_append, Chip.seeAll_append, Chip.seeAll_offBus _ hbefore, Chip.seeAll_offBus _ hafter,
      Chip.seeAll_frame _ hclk hupd (hwhole hs)] at hsee
    exact ⟨by simp [hsee], by simp [hsee], by simp [hsee, hinit, hs]⟩
  | chipReset hvalid =>
    rw [Chip.seeAll_chipReset] at hsee
    exact ⟨by simp [hsee], by simp [hsee], by simp [hvalid]⟩
  | blockReset hvalid hinit => exact ⟨by simp [hsee, Chip.see], by simp [hinit], by simp [hvalid]⟩

/-- After one more event a line holds its reset level, the level the event sets on it, or the level it held. -/
theorem heldLevel_concat {α : Type} (pick : Event → Option α) (atReset : α) (tr : List Event) (e : Event) :
    heldLevel pick atReset (tr ++ [e]) =
      if e = .blockReset then atReset else (pick e).getD (heldLevel pick atReset tr) :=
  List.foldl_concat ..

/-- Emitting an event moves each line as its trace says, whichever the line and the event are. -/
theorem LinesFollowTrace.emit {s : State} (h : LinesFollowTrace s) (e : Event) : LinesFollowTrace (Machine.emit e s) := by
  obtain ⟨hd, hclk, hupd, hrst, hsync, hamp, hduty, hint⟩ := h
  constructor <;> rw [emit_trace, heldLevel_concat, emit_lines] <;> cases e <;> simp [*, Lines.after, Lines.reset]

/-- The lines follow the trace over all events of a step. -/
theorem LinesFollowTrace.of_emits {s t : State} {es : List Event} (hs : LinesFollowTrace s) (h : Emits es s t) :
    LinesFollowTrace t := by
  induction es generalizing s with
  | nil =>
    obtain ⟨htrace, hlines⟩ := h
    obtain ⟨hd, hclk, hupd, hrst, hsync, hamp, hduty, hint⟩ := hs
    constructor <;> simp only [htrace, hlines, List.append_nil, List.foldl_nil] <;> assumption
  | cons e es ih => exact ih (hs.emit e) ⟨by simp [h.trace], h.lines⟩

end Sys2Proof.Safety
end

section
/-! PROOFS. Which commands and loop steps write which register, ERR and the phase. -/

namespace Sys2Proof.Machine

/-- An issue step that ends busy is the start of a loop by its command, and ERR is not written (R28, R221). -/
theorem IssueEffect.of_busy {s t : State} {i : Instr} (h : IssueEffect s i t) (hbusy : t.phase ≠ .idle) :
    t.err = s.err ∧ ((i = .fmRun ∧ t.phase = .fmLoop) ∨ (i = .amRun ∧ t.phase = .amLoop) ∨
      (i = .sweepRun ∧ t.phase = .sweepRamp)) := by
  cases h with
  | nop | refused | setFa | setFb | tune | program | setFreq | resetChip => exact absurd rfl hbusy
  | fmRun => exact ⟨rfl, .inl ⟨rfl, rfl⟩⟩
  | amRun => exact ⟨rfl, .inr (.inl ⟨rfl, rfl⟩)⟩
  | sweepRun => exact ⟨rfl, .inr (.inr ⟨rfl, rfl⟩)⟩

/-- The commands that write FA, FB, TW and CHIP_INIT (R21, R22, R23, R29). -/
theorem IssueEffect.writes_register {s t : State} {i : Instr} (h : IssueEffect s i t) :
    (t.fa ≠ s.fa → ∃ f, i = .setFa f) ∧ (t.fb ≠ s.fb → ∃ f, i = .setFb f) ∧ (t.tw ≠ s.tw → ∃ f, i = .tune f) ∧
      (t.chipInit ≠ s.chipInit → i = .resetChip) := by
  cases h <;> simp [setF, emitAll_eq]

/-- The commands that write the record of the DDS (R24). -/
theorem IssueEffect.writes_dds {s t : State} {i : Instr} (h : IssueEffect s i t)
    (hw : t.ddsWord ≠ s.ddsWord ∨ t.ddsValid ≠ s.ddsValid) :
    i = .resetChip ∨ (∃ w, i = .program w) ∨ ∃ f, i = .setFreq f := by
  cases h <;> simp_all [emitAll_eq]

/-- The phases whose loop step writes the record of the DDS: those that send frames (R24). -/
theorem runPhase_writes_dds {h r : Bool} {s : State}
    (hw : (runPhase h r s).ddsWord ≠ s.ddsWord ∨ (runPhase h r s).ddsValid ≠ s.ddsValid) :
    s.phase ∈ [Phase.fmLoop, .amLoop, .sweepRamp, .sweepEnd] := by
  cases hp : s.phase with
  | idle => simp [runPhase, hp] at hw
  | fmLoop | amLoop | sweepRamp | sweepEnd => decide
  | releaseWait => simp [runPhase, hp, runReleaseWait_eq] at hw

/-- A loop step writes ERR only by completing, and completes with OK (R232). -/
theorem runPhase_err {h r : Bool} {s : State} (hbusy : s.phase ≠ .idle) :
    (runPhase h r s).err = if (runPhase h r s).phase = .idle then .ok else s.err := by
  cases hp : s.phase with
  | idle => exact absurd hp hbusy
  | fmLoop => cases h <;> simp [runPhase, hp, runFmLoop_eq]
  | amLoop => cases h <;> simp [runPhase, hp, runAmLoop_eq]
  | sweepRamp => simp only [runPhase, hp, runSweepRamp_eq]; split <;> simp
  | sweepEnd => cases r <;> simp [runPhase, hp, runSweepEnd_eq]
  | releaseWait => cases h <;> simp [runPhase, hp, runReleaseWait_eq]

/-- The moves of the phase in a loop step, with the draw that decides each (R221). -/
theorem runPhase_moves {h r : Bool} {s : State} (hmove : (runPhase h r s).phase ≠ s.phase) :
    ((s.phase = .fmLoop ∨ s.phase = .amLoop) ∧ (runPhase h r s).phase = .releaseWait ∧ h = true) ∨
    (s.phase = .releaseWait ∧ (runPhase h r s).phase = .idle ∧ h = false) ∨
    (s.phase = .sweepRamp ∧ (runPhase h r s).phase = .sweepEnd) ∨
    (s.phase = .sweepEnd ∧ (runPhase h r s).phase = .sweepRamp ∧ r = false) ∨
    (s.phase = .sweepEnd ∧ (runPhase h r s).phase = .idle ∧ r = true) := by
  cases hp : s.phase with
  | idle => simp [runPhase, hp] at hmove
  | fmLoop => cases h <;> simp [runPhase, hp, runFmLoop_eq] at hmove ⊢
  | amLoop => cases h <;> simp [runPhase, hp, runAmLoop_eq] at hmove ⊢
  | sweepRamp => simpa [runPhase, hp, runSweepRamp_eq] using hmove
  | sweepEnd => cases r <;> simp [runPhase, hp, runSweepEnd_eq]
  | releaseWait => cases h <;> simp [runPhase, hp, runReleaseWait_eq] at hmove ⊢

end Sys2Proof.Machine
end

section
/-! PROOFS. The fields of STATUS, and the values of a block reset. -/

namespace Sys2Proof.Machine

open Sys2Proof.Safety

section
variable (intDis sync ampEn ddsValid chipInit : Bool) (err : ErrCode) (phase : Phase)

/-- The one-bit fields of STATUS (R26, R29, R30). -/
theorem statusOf_flags (status : Word) (h : status = statusOf intDis sync ampEn ddsValid chipInit err phase) :
    status.getLsbD 0 = (phase != .idle) ∧ status.getLsbD 8 = chipInit ∧ status.getLsbD 9 = ddsValid ∧
      status.getLsbD 10 = ampEn ∧ status.getLsbD 11 = sync ∧ status.getLsbD 12 = intDis := by
  subst h
  simp only [statusOf, BitVec.getLsbD_append]
  simp

theorem statusOf_mode : (statusOf intDis sync ampEn ddsValid chipInit err phase).extractLsb' 1 3 = phase.mode := by
  apply BitVec.eq_of_getLsbD_eq
  intro i hi
  simp only [BitVec.getLsbD_extractLsb', statusOf, BitVec.getLsbD_append]
  interval_cases i <;> simp

theorem statusOf_err : (statusOf intDis sync ampEn ddsValid chipInit err phase).extractLsb' 4 4 = err.code := by
  apply BitVec.eq_of_getLsbD_eq
  intro i hi
  simp only [BitVec.getLsbD_extractLsb', statusOf, BitVec.getLsbD_append]
  interval_cases i <;> simp

theorem statusOf_reserved : (statusOf intDis sync ampEn ddsValid chipInit err phase).extractLsb' 13 19 = 0#19 := by
  apply BitVec.eq_of_getLsbD_eq
  intro i hi
  simp only [BitVec.getLsbD_extractLsb', statusOf, BitVec.getLsbD_append]
  interval_cases i <;> simp
end

/-- STATUS of the reset values (R48). -/
theorem statusOf_reset : statusOf false false false false false .ok .idle = 0 := by decide

/-- A block reset sets the values of R48 in any state (R261). -/
theorem resetValues_blockReset (s : State) : ResetValues (blockReset s) :=
  ⟨rfl, rfl, rfl, rfl, rfl, rfl, rfl, rfl, rfl, rfl, rfl, rfl, rfl, rfl, (winRead_status _).trans statusOf_reset⟩

/-- The state after power-on is that of a block reset with nothing traced before it. -/
theorem reset_eq_blockReset : State.reset = blockReset { State.reset with trace := [] } := rfl

end Sys2Proof.Machine
end

section
/-! PROOFS. The obligations of 10_state.md. -/

namespace Sys2Proof.Proofs

open Sys2Proof.Machine Sys2Proof.Safety

/-- Settles O17: whatever a step does to the bus keeps the chip's agreement. -/
theorem stepKeepsChipAgreement : Obligations.StepKeepsChipAgreement := by
  intro c s t hc hgate hstep
  obtain ⟨es, hemits, hbus, -⟩ := step_emits hstep
  exact hc.of_busEffect hgate hemits hbus

/-- Settles O58: the lines and the trace move together, event by event. -/
theorem stepKeepsLinesFollowTrace : Obligations.StepKeepsLinesFollowTrace := by
  intro s t hs hstep
  obtain ⟨es, hemits, -⟩ := step_emits hstep
  exact hs.of_emits hemits

/-- Settles O46: only the loop step of a phase reads the keypad levels, and it reads those of its phase. -/
theorem onlyTheNamedPhasesSampleKeys : Obligations.OnlyTheNamedPhasesSampleKeys := by
  intro s h r h' r'
  refine ⟨fun hp => step_withKeys_congr ?_, fun hp => step_withKeys_congr ?_, fun hp => step_withKeys_congr ?_⟩
  · obtain hp | hp := hp <;> simp only [runPhase, hp]
  · obtain hp | hp | hp := hp <;> simp only [runPhase, hp]
  · simp only [runPhase, hp]

/-- Settles O47: by the writers of the issue steps, and the frame of the loop steps. -/
theorem onlyTheNamedCommandsWrite : Obligations.OnlyTheNamedCommandsWrite := by
  intro s t hstep hrst
  obtain ⟨-, rfl⟩ | ⟨i, u, hi, hu, rfl⟩ | ⟨-, rfl⟩ | ⟨-, rfl⟩ := step_cases_of_no_reset hstep hrst
  · simp
  · obtain ⟨hfa, hfb, htw, hinit⟩ := hu.writes_register
    refine ⟨fun h => ?_, fun h => ?_, fun h => ?_, fun h => ?_, fun h => ?_⟩
    · obtain ⟨f, rfl⟩ := hfa h
      exact ⟨f, hi⟩
    · obtain ⟨f, rfl⟩ := hfb h
      exact ⟨f, hi⟩
    · obtain ⟨f, rfl⟩ := htw h
      exact ⟨f, hi⟩
    · exact hinit h ▸ hi
    · obtain rfl | ⟨w, rfl⟩ | ⟨f, rfl⟩ := hu.writes_dds h
      · exact .inl hi
      · exact .inr (.inl ⟨w, hi⟩)
      · exact .inr (.inr (.inl ⟨f, hi⟩))
  · simp
  · obtain ⟨hfa, hfb, htw, hinit, -⟩ := runPhase_frame s.env.pins.keyHeld s.env.pins.keyReady s
    exact ⟨absurd hfa, absurd hfb, absurd htw, absurd hinit, fun h => .inr (.inr (.inr (runPhase_writes_dds h)))⟩

/-- Settles O48: neither the reset step nor an issue step nor a loop step writes a table. -/
theorem noStepWritesTheTables : Obligations.NoStepWritesTheTables := by
  intro s t hstep
  obtain ⟨-, rfl⟩ | ⟨-, -, -, rfl⟩ | ⟨-, -, -, i, u, -, hu, rfl⟩ | ⟨-, -, -, -, rfl⟩ | ⟨-, -, rfl⟩ := step_cases hstep
  · simp
  · simp
  · obtain ⟨v, hv, -, hfm, ham⟩ := exec_next i (acceptCommand s)
    cases hv.symm.trans hu
    exact ⟨hfm, ham⟩
  · simp
  · obtain ⟨-, -, -, -, -, -, -, -, hfm, ham, -⟩ := runPhase_frame s.env.pins.keyHeld s.env.pins.keyReady s
    exact ⟨hfm, ham⟩

/-- Settles O49: a busy end of an issue step is a start, and the loop steps move as R221 says. -/
theorem phaseMoves : Obligations.PhaseMoves := by
  intro s t hstep hrst hmove
  obtain ⟨-, rfl⟩ | ⟨i, u, hi, hu, rfl⟩ | ⟨hp, rfl⟩ | ⟨-, rfl⟩ := step_cases_of_no_reset hstep hrst
  · exact absurd rfl hmove
  · obtain ⟨-, ⟨rfl, ht⟩ | ⟨rfl, ht⟩ | ⟨rfl, ht⟩⟩ := hu.of_busy fun h => hmove (h.trans hi.phase.symm)
    · exact .inl ⟨hi, ht⟩
    · exact .inr (.inl ⟨hi, ht⟩)
    · exact .inr (.inr (.inl ⟨hi, ht⟩))
  · exact absurd hp.symm hmove
  · exact .inr (.inr (.inr (runPhase_moves hmove)))

/-- Settles O50: a command that stays busy keeps ERR, and a loop step writes OK as it completes. -/
theorem errIsWrittenAtCompletion : Obligations.ErrIsWrittenAtCompletion := by
  intro s t hstep hrst
  obtain ⟨hp, rfl⟩ | ⟨i, u, hi, hu, rfl⟩ | ⟨hp, rfl⟩ | ⟨hp, rfl⟩ := step_cases_of_no_reset hstep hrst
  · exact ⟨fun _ => rfl, absurd hp⟩
  · exact ⟨fun h => (hu.of_busy h).1, absurd hi.phase⟩
  · exact ⟨absurd rfl, absurd hp⟩
  · exact ⟨fun h => (runPhase_err hp).trans (if_neg h), fun _ h => (runPhase_err hp).trans (if_pos h)⟩

/-- Settles O51: by the events of a step. -/
theorem oneKickPerLoopStep : Obligations.OneKickPerLoopStep := by
  intro s t hstep
  obtain ⟨es, hemits, -, hkicks⟩ := step_emits hstep
  exact ⟨es, hemits.trace, hkicks⟩

/-- Settles O1: by the values of a block reset. -/
theorem blockResetSetsEveryValue : Obligations.BlockResetSetsEveryValue := fun s =>
  ⟨resetValues_blockReset s, rfl, rfl, rfl, rfl⟩

/-- Settles O2: the power-on state is a block reset's, and the window shows its values. -/
theorem stateAfterReset : Obligations.StateAfterReset := by
  have h := resetValues_blockReset { State.reset with trace := [] }
  rw [← reset_eq_blockReset] at h
  exact ⟨h, h.fa, h.fb, h.tw, h.ddsWord, h.status⟩

/-- Settles O4: field by field. -/
theorem statusLayout : Obligations.StatusLayout := by
  intro s
  obtain ⟨hbusy, hinit, hvalid, hamp, hsync, hint⟩ := statusOf_flags _ _ _ _ _ _ _ _ (winRead_status s)
  refine ⟨?_, ?_, ?_, hinit, hvalid, hamp, hsync, hint, ?_⟩
  · rw [hbusy]
    cases s.phase <;> rfl
  · rw [winRead_status, statusOf_mode]
    cases s.phase <;> rfl
  · rw [winRead_status, statusOf_err]
    cases s.err <;> rfl
  · rw [winRead_status, statusOf_reserved]

/-- Settles O42: by the four lemmas on the enabled step; every issue step answers a next state. -/
theorem stepTakesTheEnabledStep : Obligations.StepTakesTheEnabledStep := by
  intro s
  refine ⟨step_of_rst, step_of_no_command, fun hrst hidle hcmd => ?_, step_of_busy⟩
  obtain ⟨t, ht, -⟩ := issueCommand_next s.env.pins.cmd (acceptCommand s)
  exact ⟨t, ht, step_of_command hrst hidle hcmd ht⟩

/-- Settles O44: holding a command changes no other level. -/
theorem environmentAfterAStep : Obligations.EnvironmentAfterAStep := by
  rintro s x rfl
  rw [← Env.sample_eq_headD]
  obtain ⟨hrst, hheld, hready⟩ := holdCommand_levels s.env.pins s.env.sample
  refine ⟨rfl, rfl, hrst, hheld, hready, fun hcmd => ?_, fun hcmd => ?_⟩
  · simp [Env.advance, Inputs.holdCommand, hcmd]
  · simp [Env.advance, Inputs.holdCommand, hcmd]

end Sys2Proof.Proofs
end

section
/-! PROOFS. The reserved addresses of the register window, and the chip that works with the bytes of a word. -/

namespace Sys2Proof.Machine

/-- A reserved window address reads zero (R63). -/
theorem winRead_reserved {a : BitVec 4} (ha : 5 ≤ a.toNat) (s : State) : winRead a s = 0 := by
  unfold winRead
  split
  case h_6 => rfl
  all_goals exact absurd ha (by decide)

section
variable {c : Chip} {w : Word}

/-- The control byte of a frame selects phase 0, power on and factory bits 0 (R110, R111). -/
theorem Chip.settings_of_working_eq (h : c.working = wordBytes w) : c.settings = some ⟨0, true, 0⟩ := by
  rw [Chip.settings, h]
  rfl

/-- A chip that works with the bytes of a word emits the word's frequency (R110). -/
theorem Chip.output_of_working_eq (h : c.working = wordBytes w) : c.output = some (outputFrequency w) := by
  simp [Chip.output, Chip.settings_of_working_eq h, h]

/-- A FQ_UD pulse is one update of the working registers (R110). -/
theorem Chip.seeAll_fqud_pulse (hupd : c.fqUd = false) : c.seeAll [.fqud true, .fqud false] = c.update := by
  simp [Chip.see, Chip.update, hupd]

/-- An update changes nothing of a chip between frames that works with its input register (R110). -/
theorem Chip.update_of_latched (hptr : c.pointer = 0) (hlatched : c.working = c.input) : c.update = c := by
  obtain ⟨bus, wClk, fqUd, pointer, input, working⟩ := c
  cases hptr
  cases hlatched
  rfl
end

end Sys2Proof.Machine
end

section
/-! PROOFS. The obligations of 20_memory.md. -/

namespace Sys2Proof.Proofs

open Sys2Proof.Machine

/-- Settles O3: the five registers are the window's first five arms, and the other addresses are reserved. -/
theorem windowMap : Obligations.WindowMap := fun s =>
  ⟨rfl, rfl, rfl, rfl, rfl, fun _ ha => winRead_reserved ha s⟩

/-- Settles O16: by the whole chip after a frame, which works with the word's bytes and has latched its input. -/
theorem chipLatchesTheFrame : Obligations.ChipLatchesTheFrame := by
  intro c w hptr hclk hupd
  have hchip := Chip.seeAll_frame w hclk hupd hptr
  have hworking : (c.seeAll (frame w)).working = wordBytes w := by rw [hchip]
  refine ⟨?_, ?_, Chip.settings_of_working_eq hworking, ?_, ?_⟩
  · rw [hchip, hclk, hupd, hptr]
    rfl
  · rw [hworking, word_wordBytes]
  · rw [Chip.output_of_working_eq hworking, outputFrequency]
    norm_num
  · rw [hchip, Chip.seeAll_fqud_pulse rfl, Chip.update_of_latched rfl rfl]

end Sys2Proof.Proofs
end

section
/-! PROOFS. The decoder over the rows of the opcode map (R87 to R90), and the bytes of a command word (R68). -/

namespace Sys2Proof

/-- The command of a mnemonic with the OPD field `opd`, which an F0 command does not keep (R81, R87). -/
def Mnemonic.instr : Mnemonic → Word → Instr
  | .nop, _ => .nop
  | .resetChip, _ => .resetChip
  | .setFa, opd => .setFa opd
  | .setFb, opd => .setFb opd
  | .tune, opd => .tune opd
  | .program, opd => .program opd
  | .setFreq, opd => .setFreq opd
  | .fmRun, _ => .fmRun
  | .amRun, _ => .amRun
  | .sweepRun, _ => .sweepRun

/-! ### The rows of the opcode map -/

section
variable (m : Mnemonic) (opd : Word)

/-- The decoder takes a row of the opcode map with every operand in F1, and with a zero operand only in F0. -/
theorem decode_opcode :
    decode m.opcode opd =
      if m.format = .noOperand ∧ opd ≠ 0 then .error (.operandNotZero m.opcode opd) else .ok (m.instr opd) := by
  cases m with
  | nop | resetChip | fmRun | amRun | sweepRun =>
    by_cases h : opd = 0 <;> simp [decode, decodeF0, Mnemonic.opcode, Mnemonic.format, Mnemonic.instr, h]
  | setFa | setFb | tune | program | setFreq => rfl

theorem wf_opcode : RawCommand.wf ⟨m.opcode, opd⟩ = true ↔ ¬(m.format = .noOperand ∧ opd ≠ 0) := by
  cases m <;> simp [RawCommand.wf, Mnemonic.opcode, Mnemonic.format]

theorem opcode_mem_f0_iff : m.opcode ∈ [0x00#8, 0x01#8, 0x07#8, 0x08#8, 0x09#8] ↔ m.format = .noOperand := by
  cases m <;> decide

theorem encode_instr (h : ¬(m.format = .noOperand ∧ opd ≠ 0)) :
    encode (m.instr opd) = commandOfFields m.opcode opd := by
  cases m with
  | nop | resetChip | fmRun | amRun | sweepRun =>
    obtain rfl : opd = 0 := by simpa [Mnemonic.format] using h
    rfl
  | setFa | setFb | tune | program | setFreq => rfl
end

/-- Every opcode that is not reserved is a row of the opcode map (R87, R88). -/
theorem exists_opcode_eq {op : Byte} (h : op.toNat < 0x0A) : ∃ m : Mnemonic, m.opcode = op := by
  have hmem : op ∈ [Mnemonic.nop, .resetChip, .setFa, .setFb, .tune, .program, .setFreq, .fmRun, .amRun, .sweepRun].map
      Mnemonic.opcode := by
    revert op
    decide
  obtain ⟨m, -, hm⟩ := List.mem_map.mp hmem
  exact ⟨m, hm⟩

/-! ### The decoder -/

section
variable {op : Byte} {opd : Word}

theorem decode_reserved (h : 0x0A ≤ op.toNat) : decode op opd = .error (.reservedOpcode op) := by
  unfold decode
  split
  case h_11 => rfl
  all_goals exact absurd h (by decide)

theorem wf_reserved (h : 0x0A ≤ op.toNat) : RawCommand.wf ⟨op, opd⟩ = false := by
  have hop : ¬op.toNat ≤ 0x09 := by omega
  simp [RawCommand.wf, hop]

theorem decode_error_iff :
    (∃ e, decode op opd = .error e) ↔
      0x0A ≤ op.toNat ∨ (op ∈ [0x00#8, 0x01#8, 0x07#8, 0x08#8, 0x09#8] ∧ opd ≠ 0) := by
  obtain h | h := le_or_gt 0x0A op.toNat
  · simp [decode_reserved h, h]
  · obtain ⟨m, rfl⟩ := exists_opcode_eq h
    rw [decode_opcode, opcode_mem_f0_iff, or_iff_right (Nat.not_le.mpr h)]
    split
    · exact iff_of_true ⟨_, rfl⟩ ‹_›
    · exact iff_of_false (fun ⟨_, he⟩ => nomatch he) ‹_›

theorem decode_ok_iff_wf : (∃ i, decode op opd = .ok i) ↔ RawCommand.wf ⟨op, opd⟩ = true := by
  obtain h | h := le_or_gt 0x0A op.toNat
  · simp [decode_reserved h, wf_reserved h]
  · obtain ⟨m, rfl⟩ := exists_opcode_eq h
    rw [decode_opcode, wf_opcode]
    split
    · exact iff_of_false (fun ⟨_, hi⟩ => nomatch hi) (not_not_intro ‹_›)
    · exact iff_of_true ⟨_, rfl⟩ ‹_›

/-- The fields that decode to a command are the fields of its encoding. -/
theorem encode_of_decode {i : Instr} (h : decode op opd = .ok i) : encode i = commandOfFields op opd := by
  obtain hop | hop := le_or_gt 0x0A op.toNat
  · rw [decode_reserved hop] at h
    cases h
  · obtain ⟨m, rfl⟩ := exists_opcode_eq hop
    rw [decode_opcode] at h
    split at h <;> cases h
    exact encode_instr m opd ‹_›
end

theorem decodeCommand_encode (i : Instr) : decodeCommand (encode i) = .ok i :=
  (decodeCommand_append i.mnemonic.opcode i.operand).trans (by cases i <;> rfl)

theorem decodeCommand_of_encode_eq {w : Command} {i : Instr} (h : encode i = w) : decodeCommand w = .ok i :=
  h ▸ decodeCommand_encode i

theorem encode_of_decodeCommand {w : Command} {i : Instr} (h : decodeCommand w = .ok i) : encode i = w :=
  (encode_of_decode h).trans (commandOfFields_opOf_opdOf w)

theorem decodeCommand_of_decodeTableWord {nbits w : Nat} {i : Instr} (h : decodeTableWord nbits w = some i) :
    decodeCommand (tableCommand nbits w) = .ok i := by
  unfold decodeTableWord at h
  split at h <;> cases h
  assumption

/-! ### The byte link -/

open BitVec in
/-- The five bytes of a word, joined in their order two at a time, are the word. -/
theorem bytes_append (w : Command) :
    w.extractLsb' 32 8 ++ w.extractLsb' 24 8 ++ w.extractLsb' 16 8 ++ w.extractLsb' 8 8 ++ w.extractLsb' 0 8 = w := by
  rw [extractLsb'_append_extractLsb'_eq_extractLsb' (show 32 = 24 + 8 from rfl),
    extractLsb'_append_extractLsb'_eq_extractLsb' (show 24 = 16 + 8 from rfl),
    extractLsb'_append_extractLsb'_eq_extractLsb' (show 16 = 8 + 8 from rfl),
    extractLsb'_append_extractLsb'_eq_extractLsb' (show 8 = 0 + 8 from rfl)]
  exact extractLsb'_eq_self

theorem commandOfBytes_bytesOfCommand (w : Command) : commandOfBytes (bytesOfCommand w) = .ok w :=
  congrArg Except.ok (bytes_append w)

theorem decodeBytes_bytesOfCommand (w : Command) : decodeBytes (bytesOfCommand w) = decodeCommand w := by
  simp only [decodeBytes, commandOfBytes_bytesOfCommand]

end Sys2Proof
end

section
/-! PROOFS. What the assembler makes of the immediate of an F1 command (R92). -/

namespace Sys2Proof.Machine

theorem assembleCommand_refuses {m : Mnemonic} {imm : Option Imm} (h : m.format.accepts imm = false) :
    assembleCommand m imm = .error .immediateRefused := by
  simp [assembleCommand, h]

/-- An accepted immediate of an F1 command becomes the operand of the decoded command. -/
theorem assembleCommand_decodes {m : Mnemonic} {imm : Imm} (hm : m.format ≠ .noOperand)
    (h : m.format.accepts (some imm) = true) :
    ∃ w, assembleCommand m (some imm) = .ok w ∧ decodeCommand w = .ok (m.instr (immBits imm)) := by
  refine ⟨commandOfFields m.opcode (immBits imm), if_pos h, ?_⟩
  rw [commandOfFields, decodeCommand_append, decode_opcode, if_neg fun hF0 => hm hF0.1]

theorem accepts_hex {f : Format} (hf : f ≠ .noOperand) (n : Nat) :
    f.accepts (some (.hex n)) = decide (n < 4294967296) := by
  cases f with
  | noOperand => exact absurd rfl hf
  | signedImm | unsignedImm => rfl

section
variable {n : Int}

theorem immBits_dec_toInt (hlo : -2147483648 ≤ n) (hhi : n ≤ 2147483647) : (immBits (.dec n)).toInt = n :=
  BitVec.toInt_ofInt_eq_self (by decide) hlo (Int.lt_add_one_of_le hhi)

theorem immBits_dec_toNat (hlo : 0 ≤ n) (hhi : n ≤ 4294967295) : ((immBits (.dec n)).toNat : Int) = n := by
  have hlt : n < ((2 ^ 32 : Nat) : Int) := Int.lt_add_one_of_le hhi
  rw [immBits, BitVec.toNat_ofInt, Int.emod_eq_of_lt hlo hlt, Int.toNat_of_nonneg hlo]
end

theorem immBits_hex_toNat {n : Nat} (h : n < 4294967296) : (immBits (.hex n)).toNat = n :=
  (BitVec.toNat_ofNat n 32).trans (Nat.mod_eq_of_lt h)

/-! ### Each kind of immediate, in range and out of it -/

section
variable {m : Mnemonic} {n : Int}

theorem assembleCommand_signed_dec (hm : m.format = .signedImm) (hlo : -2147483648 ≤ n) (hhi : n ≤ 2147483647) :
    ∃ w f, assembleCommand m (some (.dec n)) = .ok w ∧ decodeCommand w = .ok (m.instr f) ∧ f.toInt = n := by
  obtain ⟨w, hw, hdec⟩ := assembleCommand_decodes (m := m) (imm := .dec n) (by simp [hm])
    (by simp [hm, Format.accepts, hlo, hhi])
  exact ⟨w, _, hw, hdec, immBits_dec_toInt hlo hhi⟩

theorem assembleCommand_signed_dec_refused (hm : m.format = .signedImm) (hn : n < -2147483648 ∨ 2147483647 < n) :
    assembleCommand m (some (.dec n)) = .error .immediateRefused := by
  apply assembleCommand_refuses
  rw [hm, Format.accepts, decide_eq_false_iff_not]
  omega

theorem assembleCommand_unsigned_dec (hm : m.format = .unsignedImm) (hlo : 0 ≤ n) (hhi : n ≤ 4294967295) :
    ∃ w x, assembleCommand m (some (.dec n)) = .ok w ∧ decodeCommand w = .ok (m.instr x) ∧ (x.toNat : Int) = n := by
  obtain ⟨w, hw, hdec⟩ := assembleCommand_decodes (m := m) (imm := .dec n) (by simp [hm])
    (by simp [hm, Format.accepts, hlo, hhi])
  exact ⟨w, _, hw, hdec, immBits_dec_toNat hlo hhi⟩

theorem assembleCommand_unsigned_dec_refused (hm : m.format = .unsignedImm) (hn : n < 0 ∨ 4294967295 < n) :
    assembleCommand m (some (.dec n)) = .error .immediateRefused := by
  apply assembleCommand_refuses
  rw [hm, Format.accepts, decide_eq_false_iff_not]
  omega
end

section
variable {m : Mnemonic} {n : Nat}

theorem assembleCommand_hex (hm : m.format ≠ .noOperand) (hn : n < 4294967296) :
    ∃ w x, assembleCommand m (some (.hex n)) = .ok w ∧ decodeCommand w = .ok (m.instr x) ∧ x.toNat = n := by
  obtain ⟨w, hw, hdec⟩ := assembleCommand_decodes (imm := .hex n) hm (by simp [accepts_hex hm, hn])
  exact ⟨w, _, hw, hdec, immBits_hex_toNat hn⟩

theorem assembleCommand_hex_refused (hm : m.format ≠ .noOperand) (hn : 4294967296 ≤ n) :
    assembleCommand m (some (.hex n)) = .error .immediateRefused := by
  apply assembleCommand_refuses
  rw [accepts_hex hm, decide_eq_false_iff_not]
  omega
end

/-! ### The F1 rows, as pairs of mnemonic and command -/

section
variable {p : Mnemonic × (Word → Instr)}

theorem frequency_row (hp : p ∈ [(.setFa, .setFa), (.setFb, .setFb), (.tune, .tune), (.setFreq, .setFreq)]) :
    p.2 = p.1.instr ∧ p.1.format = .signedImm := by
  revert p
  simp only [List.forall_mem_cons]
  exact ⟨⟨rfl, rfl⟩, ⟨rfl, rfl⟩, ⟨rfl, rfl⟩, ⟨rfl, rfl⟩, List.forall_mem_nil _⟩

theorem operand_row
    (hp : p ∈ [(.setFa, .setFa), (.setFb, .setFb), (.tune, .tune), (.setFreq, .setFreq), (.program, .program)]) :
    p.2 = p.1.instr ∧ p.1.format ≠ .noOperand := by
  revert p
  simp only [List.forall_mem_cons]
  exact ⟨⟨rfl, by decide⟩, ⟨rfl, by decide⟩, ⟨rfl, by decide⟩, ⟨rfl, by decide⟩, ⟨rfl, by decide⟩,
    List.forall_mem_nil _⟩
end

end Sys2Proof.Machine
end

section
/-! PROOFS. The issue step of a decoded and of an illegal word, and the command port of a busy block (R82, R83, R88). -/

namespace Sys2Proof.Machine

open Sys2Proof.Safety

theorem issueCommand_of_ok {w : Command} {i : Instr} (h : decodeCommand w = .ok i) (s : State) :
    issueCommand w s = exec i s := by
  simp only [issueCommand, h]

theorem issueCommand_of_error {w : Command} {e : DecodeError} (h : decodeCommand w = .error e) (s : State) :
    issueCommand w s = .next (complete .illegal s) := by
  simp only [issueCommand, h, raiseError_eq_complete]

theorem complete_of_idle {s : State} (hidle : s.phase = .idle) (c : ErrCode) : complete c s = { s with err := c } := by
  rw [complete, ← hidle]

theorem step_of_issues {s t : State} {i : Instr} (hi : Issues s i) (ht : exec i (acceptCommand s) = .next t) :
    step s = .next (advanceInputs t) :=
  step_of_command hi.rst hi.phase hi.valid ((issueCommand_of_ok hi.decoded _).trans ht)

theorem issues_withFetchWord {nbits w : Nat} {i : Instr} (h : decodeTableWord nbits w = some i) (s : State) :
    Issues (s.withFetchWord nbits w) i :=
  ⟨rfl, rfl, rfl, decodeCommand_of_decodeTableWord h⟩

/-- The environment with another command on the port, or none. -/
def Env.setCommand (valid : Bool) (w : Command) (e : Env) : Env :=
  { e with pins := { e.pins with cmdValid := valid, cmd := w } }

theorem withCommand_eq_mapEnv (valid : Bool) (w : Command) (s : State) :
    withCommand valid w s = mapEnv (Env.setCommand valid w) s := rfl

/-- A loop step neither reads the command port nor takes a command off it. -/
theorem step_withCommand_of_busy {valid : Bool} {w : Command} {s : State} (hrst : s.env.pins.rst = false)
    (hbusy : s.phase ≠ .idle) :
    step (withCommand valid w s) =
      .next (advanceInputs (withCommand valid w (runPhase s.env.pins.keyHeld s.env.pins.keyReady s))) := by
  rw [step_of_busy (s := withCommand valid w s) hrst hbusy, withCommand_eq_mapEnv, runPhase_mapEnv]
  rfl

/-- A command presented before the environment moves is presented after it. -/
theorem advanceInputs_withCommand (w : Command) (s : State) :
    (advanceInputs (withCommand true w s)).env.pins.cmdValid = true ∧
      (advanceInputs (withCommand true w s)).env.pins.cmd = w :=
  ⟨rfl, rfl⟩

end Sys2Proof.Machine
end

section
/-! PROOFS. The obligations of 30_encoding.md. -/

namespace Sys2Proof.Proofs

open Sys2Proof.Machine Sys2Proof.Safety

/-- Settles O5: by the rows of the opcode map in both directions, and the word that the five bytes join to. -/
theorem decodeInvertsEncode : Obligations.DecodeInvertsEncode :=
  ⟨fun i _ => decodeCommand_encode i, fun _ _ h => (encode_of_decodeCommand h).symm, decodeBytes_bytesOfCommand⟩

/-- Settles O6: by the decoder over reserved opcodes and over the rows of the opcode map. -/
theorem decoderRefusesExactlyIllegalWords : Obligations.DecoderRefusesExactlyIllegalWords := fun _ =>
  ⟨decode_error_iff, decode_ok_iff_wf⟩

/-- Settles O9: the range of the format decides, and the operand keeps the value of an immediate in range. -/
theorem assemblerRefusesOutOfRange : Obligations.AssemblerRefusesOutOfRange := by
  refine ⟨fun p hp => ?_, fun _ => assembleCommand_unsigned_dec rfl, fun _ => assembleCommand_unsigned_dec_refused rfl,
    fun p hp => ?_⟩
  · obtain ⟨hinstr, hm⟩ := frequency_row hp
    rw [hinstr]
    exact ⟨fun _ => assembleCommand_signed_dec hm, fun _ => assembleCommand_signed_dec_refused hm⟩
  · obtain ⟨hinstr, hm⟩ := operand_row hp
    rw [hinstr]
    exact ⟨fun _ => assembleCommand_hex hm, fun _ => assembleCommand_hex_refused hm⟩

/-- Settles O45: the loop step does not read the command port, and the host holds what it presents. -/
theorem busyBlockHoldsTheCommand : Obligations.BusyBlockHoldsTheCommand := by
  intro s v w hbusy hrst
  refine ⟨_, _, step_of_busy hrst hbusy, step_withCommand_of_busy hrst hbusy, rfl, ?_⟩
  rintro rfl
  exact advanceInputs_withCommand w _

/-- Settles O7: each word is the encoding of its command. -/
theorem sampleWordsDecode : Obligations.SampleWordsDecode :=
  ⟨decodeCommand_of_encode_eq (by decide), decodeCommand_of_encode_eq (by decide),
    decodeCommand_of_encode_eq (by decide), decodeCommand_of_encode_eq (by decide),
    decodeCommand_of_encode_eq (by decide), decodeCommand_of_encode_eq (by decide),
    decodeCommand_of_encode_eq (by decide)⟩

/-- Settles O8: by the two's complement value of the operand, and the two branches of its reading. -/
theorem frequencyOperandIsTwosComplement : Obligations.FrequencyOperandIsTwosComplement := by
  refine fun opd => ⟨signedOperand_eq_toInt opd, fun h => ?_, fun h => ?_⟩
  · rw [signedOperand, if_pos h]
    rfl
  · rw [signedOperand, h, if_neg Bool.false_ne_true]

/-- Settles O30: an illegal word is one the decoder refuses, and completing in IDLE writes ERR alone. -/
theorem illegalWordOnlyWritesErr : Obligations.IllegalWordOnlyWritesErr := by
  intro s w hidle hillegal
  obtain ⟨e, he⟩ := decode_error_iff.mpr hillegal
  rw [issueCommand_of_error he, complete_of_idle hidle]

/-- Settles O43: every issue step answers a next state, which is the step's. -/
theorem stepRunsTheDecodedCommand : Obligations.StepRunsTheDecodedCommand := by
  refine ⟨fun s i hi => ?_, fun s i w h => issues_withFetchWord h s⟩
  obtain ⟨t, ht, -⟩ := exec_next i (acceptCommand s)
  exact ⟨t, ht, step_of_issues hi ht⟩

end Sys2Proof.Proofs
end

section
/-! PROOFS. The tuning word as a number (R101, R102), and the frequencies of a sweep's ramp (R109, R183). -/

namespace Sys2Proof.Machine

section
variable {f : Int}

/-- A frequency outside the domain lies below it or above it (R102). -/
theorem not_inDomain (h : f < 0 ∨ 125000000 < f) : ¬ inDomain f := by
  rintro ⟨hlo, hhi⟩
  exact h.elim (not_lt.mpr hlo) (not_lt.mpr hhi)

/-- The formula of R101 lies in [0, 2^31], so narrowing it to 32 bits changes nothing (R102). -/
theorem tuningFormula_bounds (h : inDomain f) :
    0 ≤ fold f * 4294967296 / 125000000 ∧ fold f * 4294967296 / 125000000 ≤ 2147483648 := by
  obtain ⟨hlo, hhi⟩ := fold_bounds h
  omega

/-- Inside the domain the tuning word, as a number, is the formula of R101. -/
theorem tuningWord_toNat (h : inDomain f) :
    ((tuningWord f).toNat : Int) = fold f * 4294967296 / 125000000 := by
  obtain ⟨hlo, hhi⟩ := tuningFormula_bounds h
  rw [tuningWord_of_inDomain h, BitVec.toNat_ofInt]
  norm_num
  omega
end

/-- Up to its last step a ramp stays between the endpoints of the sweep (R183). -/
theorem rampValue_bounds (low span : Word) {k : Nat} (hk : k ≤ 256) :
    low.toInt ≤ rampValue low span k ∧ rampValue low span k ≤ low.toInt + span.toNat := by
  have hstep : k * span.toNat / 256 ≤ span.toNat :=
    Nat.div_le_of_le_mul (Nat.mul_le_mul_right span.toNat hk)
  simp only [rampValue, frequencyOf, Config.rampSteps]
  omega

end Sys2Proof.Machine

namespace Sys2Proof.Safety

open Sys2Proof.Machine

/-- While a sweep runs between committed endpoints, whatever lies between them is in the domain (R49, R102). -/
theorem SweepRegs.inDomain_of_between {s : State} (hregs : SweepRegs s) (hinv : Inv s)
    (hsweep : s.phase = .sweepRamp ∨ s.phase = .sweepEnd) {f : Int} (hlo : s.swLow.toInt ≤ f)
    (hhi : f ≤ s.swLow.toInt + s.swSpan.toNat) : inDomain f := by
  have hlow : 0 ≤ s.swLow.toInt := hregs.low hsweep ▸ le_min hinv.fa.1 hinv.fb.1
  have htop : s.swLow.toInt + s.swSpan.toNat ≤ 124999900 := hinv.sweepTop hsweep
  exact ⟨by omega, by simp only [Config.fRef]; omega⟩

end Sys2Proof.Safety
end

section
/-! PROOFS. The issue steps of the synthesizer commands in IDLE, one equation per way each can end (R121, R123, R125,
R131). -/

namespace Sys2Proof.Machine

section
variable {s : State} {f w : Word}

/-- Sending a frame and completing with OK in IDLE (R107, R232). -/
theorem complete_sendFrame_of_idle (hidle : s.phase = .idle) (w : Word) :
    complete .ok (sendFrame w s) =
      { s with
        ddsWord := w, ddsValid := true, err := .ok
        lines := { s.lines with d := 0x00, wClk := false, fqUd := false }
        trace := s.trace ++ frame w } := by
  rw [complete_of_idle ((sendFrame_phase w s).trans hidle), sendFrame_eq]

theorem exec_tune_of_inDomain (hidle : s.phase = .idle) (hf : inDomain f.toInt) :
    exec (.tune f) s = .next { s with tw := tuningWord f.toInt, err := .ok } := by
  rw [exec, execTune, signedOperand_eq_toInt, if_pos hf, complete_of_idle]
  exact hidle

theorem exec_tune_of_not_inDomain (hidle : s.phase = .idle) (hf : ¬ inDomain f.toInt) :
    exec (.tune f) s = .next { s with err := .domain } := by
  rw [exec, execTune, signedOperand_eq_toInt, if_neg hf, raiseError_eq_complete, complete_of_idle hidle]

theorem exec_program_of_chipInit (hinit : s.chipInit = true) :
    exec (.program w) s = .next (complete .ok (sendFrame w s)) := by
  rw [exec, execProgram, if_pos hinit, unsignedOperand]

theorem exec_program_of_noInit (hidle : s.phase = .idle) (hinit : s.chipInit = false) :
    exec (.program w) s = .next { s with err := .noInit } := by
  rw [exec, execProgram, if_neg (Bool.eq_false_iff.mp hinit), raiseError_eq_complete, complete_of_idle hidle]

theorem exec_setFreq_of_inDomain (hinit : s.chipInit = true) (hf : inDomain f.toInt) :
    exec (.setFreq f) s = .next (complete .ok (sendFrame (tuningWord f.toInt) s)) := by
  rw [exec, execSetFreq, signedOperand_eq_toInt, if_pos hinit, if_pos hf, setF]

theorem exec_setFreq_of_not_inDomain (hidle : s.phase = .idle) (hinit : s.chipInit = true)
    (hf : ¬ inDomain f.toInt) : exec (.setFreq f) s = .next { s with err := .domain } := by
  rw [exec, execSetFreq, signedOperand_eq_toInt, if_pos hinit, if_neg hf, raiseError_eq_complete,
    complete_of_idle hidle]

theorem exec_setFreq_of_noInit (hidle : s.phase = .idle) (hinit : s.chipInit = false) :
    exec (.setFreq f) s = .next { s with err := .noInit } := by
  rw [exec, execSetFreq, if_neg (Bool.eq_false_iff.mp hinit), raiseError_eq_complete, complete_of_idle hidle]

/-- The chip-reset sequence leaves D as it is, and completes in IDLE (R131). -/
theorem exec_resetChip_of_idle (hidle : s.phase = .idle) :
    exec .resetChip s = .next
      { s with
        ddsWord := 0, ddsValid := false, chipInit := true, err := .ok
        lines := { s.lines with ddsReset := false, wClk := false, fqUd := false }
        trace := s.trace ++ chipResetEvents } := by
  rw [exec, execResetChip, emitAll_eq, complete_of_idle]
  · rfl
  · exact hidle
end

end Sys2Proof.Machine
end

section
/-! PROOFS. The obligations of 41_synthesizer.md. -/

namespace Sys2Proof.Proofs

open Sys2Proof.Machine Sys2Proof.Safety

/-- Settles O10: the formula fits 32 bits, and its fold is the one of R101. -/
theorem tuningWordIsTheFloorFormula : Obligations.TuningWordIsTheFloorFormula := by
  intro f hlo hhi
  have hf : inDomain f := ⟨hlo, hhi⟩
  have hbounds := tuningFormula_bounds hf
  rw [← tuningWord_toNat hf] at hbounds
  exact ⟨tuningWord_toNat hf, by exact_mod_cast hbounds.2⟩

/-- Settles O38: SW_LOW and the ramp values lie between the endpoints, which are committed frequencies. -/
theorem sweepFrequenciesInDomain : Obligations.SweepFrequenciesInDomain := by
  refine fun s hinv hregs hsweep => ⟨?_, fun k hk => ?_⟩
  · exact hregs.inDomain_of_between hinv hsweep le_rfl (by omega)
  · obtain ⟨hlo, hhi⟩ := rampValue_bounds s.swLow s.swSpan hk
    exact hregs.inDomain_of_between hinv hsweep hlo hhi

/-- Settles O15: the whole state after a frame, with its bytes written out. -/
theorem frameEvents : Obligations.FrameEvents := sendFrame_eq

/-- Settles O21: the domain decides, and completing in IDLE writes ERR alone. -/
theorem tuneWritesTw : Obligations.TuneWritesTw :=
  ⟨decodeCommand_append 0x04, fun _ _ hidle =>
    ⟨exec_tune_of_inDomain hidle, fun hf => exec_tune_of_not_inDomain hidle (not_inDomain hf)⟩⟩

/-- Settles O22: CHIP_INIT decides, and the frame's whole effect is known. -/
theorem programSendsOneFrame : Obligations.ProgramSendsOneFrame :=
  ⟨decodeCommand_append 0x05, fun _ _ hidle =>
    ⟨fun hinit => by rw [exec_program_of_chipInit hinit, complete_sendFrame_of_idle hidle],
      exec_program_of_noInit hidle⟩⟩

/-- Settles O23: CHIP_INIT decides first, then the domain (R239). -/
theorem setFreqSendsTunedFrame : Obligations.SetFreqSendsTunedFrame :=
  ⟨decodeCommand_append 0x06, fun _ _ hidle =>
    ⟨exec_setFreq_of_noInit hidle,
      fun hinit hf => exec_setFreq_of_not_inDomain hidle hinit (not_inDomain hf),
      fun hinit hf => by rw [exec_setFreq_of_inDomain hinit hf, complete_sendFrame_of_idle hidle]⟩⟩

/-- Settles O24: the second issue finds the block in IDLE again and writes the same values. -/
theorem resetChipEffect : Obligations.ResetChipEffect := by
  refine ⟨decodeCommand_append 0x01 0, fun s hidle => ⟨exec_resetChip_of_idle hidle, fun t u ht hu => ?_⟩⟩
  rw [exec_resetChip_of_idle hidle] at ht
  cases ht
  rw [exec_resetChip_of_idle] at hu
  · cases hu
    rfl
  · exact hidle

end Sys2Proof.Proofs
end

section
/-! PROOFS. The issue steps of FM_RUN and AM_RUN in IDLE, one equation per way each can end (R151, R161), and the loop
step of each modulation phase as the run step (R152, R162, R171). -/

namespace Sys2Proof.Machine

section
variable {s : State}

theorem exec_fmRun_of_noInit (hidle : s.phase = .idle) (hinit : s.chipInit = false) :
    exec .fmRun s = .next { s with err := .noInit } := by
  rw [exec, execFmRun, if_neg (Bool.eq_false_iff.mp hinit), raiseError_eq_complete, complete_of_idle hidle]

theorem exec_fmRun_of_low (hidle : s.phase = .idle) (hinit : s.chipInit = true) (hlow : s.fa.toInt < 75000) :
    exec .fmRun s = .next { s with err := .fmLow } := by
  have hfa : frequencyOf s.fa < Config.fmMinCarrier := hlow
  rw [exec, execFmRun, if_pos hinit, if_pos hfa, raiseError_eq_complete, complete_of_idle hidle]

/-- From a chip-reset block with FA at or above the lower bound, the 32 sums decide (R151, R239). -/
theorem exec_fmRun_of_carrier (hinit : s.chipInit = true) (hfa : 75000 ≤ s.fa.toInt) :
    exec .fmRun s =
      if ∀ i : Fin 32, inDomain (fmSum s i) then
        .next { emit (.intDis true) { s with fmtw := fmTable s, idx := 0 } with phase := .fmLoop }
      else .next (complete .domain s) := by
  have hlow : ¬ frequencyOf s.fa < Config.fmMinCarrier := not_lt.mpr hfa
  rw [exec, execFmRun, if_pos hinit, if_neg hlow, raiseError_eq_complete]

theorem exec_fmRun_of_not_inDomain (hidle : s.phase = .idle) (hinit : s.chipInit = true) (hfa : 75000 ≤ s.fa.toInt)
    {i : Fin 32} (hi : ¬ inDomain (fmSum s i)) : exec .fmRun s = .next { s with err := .domain } := by
  rw [exec_fmRun_of_carrier hinit hfa, if_neg fun hall => hi (hall i), complete_of_idle hidle]

theorem exec_fmRun_of_inDomain (hinit : s.chipInit = true) (hfa : 75000 ≤ s.fa.toInt)
    (hall : ∀ i : Fin 32, inDomain (fmSum s i)) :
    exec .fmRun s = .next
      { s with
        fmtw := fmTable s, idx := 0, phase := .fmLoop
        lines := { s.lines with intDis := true }
        trace := s.trace ++ [.intDis true] } := by
  rw [exec_fmRun_of_carrier hinit hfa, if_pos hall]
  rfl

theorem exec_amRun_of_noInit (hidle : s.phase = .idle) (hinit : s.chipInit = false) :
    exec .amRun s = .next { s with err := .noInit } := by
  rw [exec, execAmRun, if_neg (Bool.eq_false_iff.mp hinit), raiseError_eq_complete, complete_of_idle hidle]

theorem exec_amRun_of_chipInit (hinit : s.chipInit = true) :
    exec .amRun s = .next
      { s with
        ctw := tuningWord s.fa.toInt, idx := 0, phase := .amLoop
        lines := { s.lines with ampEn := true, intDis := true }
        trace := s.trace ++ [.ampEn true, .intDis true] } := by
  rw [exec, execAmRun, if_pos hinit, emitAll_eq]
  rfl
end

section
variable {s : State} (keyHeld keyReady : Bool)

theorem runPhase_of_fmLoop (hp : s.phase = .fmLoop) : runPhase keyHeld keyReady s = runFmLoop keyHeld s := by
  simp only [runPhase, hp]

theorem runPhase_of_amLoop (hp : s.phase = .amLoop) : runPhase keyHeld keyReady s = runAmLoop keyHeld s := by
  simp only [runPhase, hp]

theorem runPhase_of_releaseWait (hp : s.phase = .releaseWait) :
    runPhase keyHeld keyReady s = runReleaseWait keyHeld s := by
  simp only [runPhase, hp]
end

end Sys2Proof.Machine
end

section
/-! PROOFS. The obligations of 42_modulation.md. -/

namespace Sys2Proof.Proofs

open Sys2Proof.Machine

/-- Settles O25: CHIP_INIT decides first, then the carrier's lower bound, then the 32 sums (R239). -/
theorem fmRunStarts : Obligations.FmRunStarts :=
  ⟨decodeCommand_append 0x07 0, fun _ hidle =>
    ⟨exec_fmRun_of_noInit hidle, exec_fmRun_of_low hidle,
      fun hinit hfa ⟨_, hi⟩ => exec_fmRun_of_not_inDomain hidle hinit hfa (not_inDomain hi),
      exec_fmRun_of_inDomain⟩⟩

/-- Settles O27: CHIP_INIT alone decides. -/
theorem amRunStarts : Obligations.AmRunStarts :=
  ⟨decodeCommand_append 0x08 0, fun _ hidle => ⟨exec_amRun_of_chipInit, exec_amRun_of_noInit hidle⟩⟩

/-- Settles O32: the step of the phase is FM_LOOP's, and the table read is at the entry of number IDX. -/
theorem fmLoopStep : Obligations.FmLoopStep := by
  intro s h r hp
  rw [runPhase_of_fmLoop h r hp, runFmLoop_eq, tableGet_eq, hp]
  simp only [List.append_assoc, List.singleton_append]

/-- Settles O33: the step of the phase is AM_LOOP's, and the table read is at the entry of number IDX. -/
theorem amLoopStep : Obligations.AmLoopStep := by
  intro s h r hp
  rw [runPhase_of_amLoop h r hp, runAmLoop_eq, tableGet_eq, hp]
  simp only [List.append_assoc, List.cons_append, List.nil_append]

/-- Settles O34: the held level decides whether the poll is the last. -/
theorem releaseWaitStep : Obligations.ReleaseWaitStep := by
  refine fun s r hp => ⟨?_, ?_⟩
  · rw [runPhase_of_releaseWait true r hp, runReleaseWait_eq]
    rfl
  · rw [runPhase_of_releaseWait false r hp, runReleaseWait_eq]
    rfl

end Sys2Proof.Proofs
end

section
/-! PROOFS. The issue step of SWEEP_RUN in IDLE, one equation per way it can end (R181), the step counter and the ramp value as
numbers (R38, R183), and the loop step of each sweep phase as the run step (R182, R184). -/

namespace Sys2Proof.Machine

/-- The lower endpoint as a register: FB where the endpoints are swapped (R181). -/
theorem sweepEndpoints_low (s : State) : (sweepEndpoints s).1 = if s.fb.toInt < s.fa.toInt then s.fb else s.fa :=
  apply_ite Prod.fst _ _ _

/-- The span as a register: the distance of the endpoints, which fits 32 unsigned bits (R38, R181). -/
theorem sweepEndpoints_span (s : State) :
    (sweepEndpoints s).2 - (sweepEndpoints s).1 = BitVec.ofInt 32 |s.fb.toInt - s.fa.toInt| := by
  obtain ⟨-, hspan⟩ := sweepEndpoints_spec s
  rw [← hspan, BitVec.ofInt_natCast, BitVec.ofNat_toNat, BitVec.setWidth_eq]

section
variable {s : State}

theorem exec_sweepRun_of_noInit (hidle : s.phase = .idle) (hinit : s.chipInit = false) :
    exec .sweepRun s = .next { s with err := .noInit } := by
  rw [exec, execSweepRun, if_neg (Bool.eq_false_iff.mp hinit), raiseError_eq_complete, complete_of_idle hidle]

theorem exec_sweepRun_of_chipInit (hinit : s.chipInit = true) :
    exec .sweepRun s = .next
      { s with
        swLow := if s.fb.toInt < s.fa.toInt then s.fb else s.fa
        swSpan := BitVec.ofInt 32 |s.fb.toInt - s.fa.toInt|
        swK := 0, phase := .sweepRamp } := by
  rw [exec, execSweepRun, if_pos hinit]
  dsimp only
  rw [sweepEndpoints_span, sweepEndpoints_low]
end

/-- The next SW_K is the narrowed successor (R38). -/
theorem swK_succ_eq_ofNat (k : BitVec 9) : k + 1 = BitVec.ofNat 9 (k.toNat + 1) := by
  rw [BitVec.ofNat_add, BitVec.ofNat_toNat, BitVec.setWidth_eq]
  rfl

/-- The last step of a ramp is step 255 (R182). -/
theorem swK_succ_eq_rampSteps_iff (k : BitVec 9) : (k + 1).toNat = Config.rampSteps ↔ k.toNat = 255 := by
  have hk := k.isLt
  rw [swK_succ_eq_ofNat, BitVec.toNat_ofNat, Config.rampSteps]
  omega

/-- The ramp value over the numbers of its registers (R183). -/
theorem rampValue_eq (low span : Word) (k : Nat) :
    rampValue low span k = low.toInt + ((k * span.toNat / 256 : Nat) : Int) := rfl

section
variable {s : State} (keyHeld keyReady : Bool)

theorem runPhase_of_sweepRamp (hp : s.phase = .sweepRamp) : runPhase keyHeld keyReady s = runSweepRamp s := by
  simp only [runPhase, hp]

theorem runPhase_of_sweepEnd (hp : s.phase = .sweepEnd) : runPhase keyHeld keyReady s = runSweepEnd keyReady s := by
  simp only [runPhase, hp]
end

end Sys2Proof.Machine
end

section
/-! PROOFS. The obligations of 43_sweep.md. -/

namespace Sys2Proof.Proofs

open Sys2Proof.Machine

/-- Settles O28: CHIP_INIT alone decides. -/
theorem sweepRunStarts : Obligations.SweepRunStarts :=
  ⟨decodeCommand_append 0x09 0, fun _ hidle => ⟨exec_sweepRun_of_chipInit, exec_sweepRun_of_noInit hidle⟩⟩

/-- Settles O35: the step of the phase is SWEEP_RAMP's, with SW_K read as a number. -/
theorem sweepRampStep : Obligations.SweepRampStep := by
  intro s h r hp _
  rw [runPhase_of_sweepRamp h r hp, runSweepRamp_eq, hp]
  simp only [rampValue_eq, swK_succ_eq_rampSteps_iff, List.append_assoc]
  rw [swK_succ_eq_ofNat]

/-- Settles O36: the step of the phase is SWEEP_END's. -/
theorem sweepEndStep : Obligations.SweepEndStep := by
  intro s h r hp
  rw [runPhase_of_sweepEnd h r hp, runSweepEnd_eq]
  simp only [frequencyOf, List.append_assoc, List.cons_append, List.nil_append]

end Sys2Proof.Proofs
end

section
/-! PROOFS. The issue steps of NOP, SET_FA and SET_FB in IDLE, one equation per way each can end (R211, R213, R214). -/

namespace Sys2Proof.Machine

/-- A frequency outside the commit range lies below it or above it (R215). -/
theorem not_inCommitRange {f : Int} (h : f < 0 ∨ 124999900 < f) : ¬ inCommitRange f := by
  rintro ⟨hlo, hhi⟩
  exact h.elim (not_lt.mpr hlo) (not_lt.mpr hhi)

section
variable {s : State} {f : Word}

theorem exec_nop_of_idle (hidle : s.phase = .idle) : exec .nop s = .next { s with err := .ok } := by
  rw [exec, execNop, complete_of_idle hidle]

theorem exec_setFa_of_inCommitRange (hidle : s.phase = .idle) (hf : inCommitRange f.toInt) :
    exec (.setFa f) s = .next { s with fa := f, err := .ok } := by
  rw [exec, execSetFa, signedOperand_eq_toInt, if_pos hf, complete_of_idle]
  exact hidle

theorem exec_setFa_of_not_inCommitRange (hidle : s.phase = .idle) (hf : ¬ inCommitRange f.toInt) :
    exec (.setFa f) s = .next { s with err := .range } := by
  rw [exec, execSetFa, signedOperand_eq_toInt, if_neg hf, raiseError_eq_complete, complete_of_idle hidle]

theorem exec_setFb_of_inCommitRange (hidle : s.phase = .idle) (hf : inCommitRange f.toInt) :
    exec (.setFb f) s = .next { s with fb := f, err := .ok } := by
  rw [exec, execSetFb, signedOperand_eq_toInt, if_pos hf, complete_of_idle]
  exact hidle

theorem exec_setFb_of_not_inCommitRange (hidle : s.phase = .idle) (hf : ¬ inCommitRange f.toInt) :
    exec (.setFb f) s = .next { s with err := .range } := by
  rw [exec, execSetFb, signedOperand_eq_toInt, if_neg hf, raiseError_eq_complete, complete_of_idle hidle]
end

end Sys2Proof.Machine
end

section
/-! PROOFS. The obligations of 44_control.md. -/

namespace Sys2Proof.Proofs

open Sys2Proof.Machine

/-- Settles O18: the zero word encodes NOP, and completing in IDLE writes ERR alone. -/
theorem nopOnlyClearsErr : Obligations.NopOnlyClearsErr :=
  ⟨decodeCommand_of_encode_eq (by decide), fun _ => exec_nop_of_idle⟩

/-- Settles O19: the commit range decides, and completing in IDLE writes ERR alone. -/
theorem setFaCommitsOrRefuses : Obligations.SetFaCommitsOrRefuses :=
  ⟨decodeCommand_append 0x02, fun _ _ hidle =>
    ⟨exec_setFa_of_inCommitRange hidle, fun hf => exec_setFa_of_not_inCommitRange hidle (not_inCommitRange hf)⟩⟩

/-- Settles O20: the commit range decides, and completing in IDLE writes ERR alone. -/
theorem setFbCommitsOrRefuses : Obligations.SetFbCommitsOrRefuses :=
  ⟨decodeCommand_append 0x03, fun _ _ hidle =>
    ⟨exec_setFb_of_inCommitRange hidle, fun hf => exec_setFb_of_not_inCommitRange hidle (not_inCommitRange hf)⟩⟩

end Sys2Proof.Proofs
end

section
/-! PROOFS. Admitted FM sums inside both margins (R39, R144), and what an issue step that ends with an error has done
(R232). -/

namespace Sys2Proof.Machine

open Sys2Proof.Safety

/-- A carrier that keeps the peak excursion from both ends of the domain has all its FM sums in it (R39, R144). -/
theorem fmSum_inDomain_of_margins {s : State} (hoff : OffsetsBounded s) (hlo : 75000 ≤ s.fa.toInt)
    (hhi : s.fa.toInt ≤ 124925000) (i : Fin 32) : inDomain (fmSum s i) := by
  obtain ⟨hdown, hup⟩ := abs_le.mp (hoff i)
  simp only [inDomain, fmSum, frequencyOf, Config.fRef]
  omega

/-- A command that completes with an error has done nothing but complete (R232). -/
theorem IssueEffect.eq_complete_of_error {s t : State} {i : Instr} (h : IssueEffect s i t) (hidle : t.phase = .idle)
    (herr : t.err ≠ .ok) : t = complete t.err s := by
  cases h with
  | refused => rfl
  | nop | setFa | setFb | tune | program | setFreq | resetChip => exact absurd rfl herr
  | fmRun | amRun | sweepRun => cases hidle

/-- The same for the issue step of any word, illegal ones included (R238). -/
theorem issueCommand_eq_complete_of_error {s t : State} {w : Command} (h : issueCommand w s = .next t)
    (hidle : t.phase = .idle) (herr : t.err ≠ .ok) : t = complete t.err s := by
  cases hw : decodeCommand w with
  | ok i =>
    rw [issueCommand_of_ok hw] at h
    exact (exec_effect h).eq_complete_of_error hidle herr
  | error e =>
    rw [issueCommand_of_error hw] at h
    cases h
    rfl

end Sys2Proof.Machine
end

section
/-! PROOFS. The obligations of 60_exceptions.md. -/

namespace Sys2Proof.Proofs

open Sys2Proof.Machine

/-- Settles O26: all 32 sums are in the domain, so FM_RUN starts, and starting does not write ERR. -/
theorem fmRunStartsBelowTheTopMargin : Obligations.FmRunStartsBelowTheTopMargin :=
  fun _ hoff _ hinit hlo hhi => ⟨_, exec_fmRun_of_inDomain hinit hlo (fmSum_inDomain_of_margins hoff hlo hhi), rfl, rfl⟩

/-- Settles O31: the step has only completed, and completing in IDLE writes ERR alone. -/
theorem errorsArePrecise : Obligations.ErrorsArePrecise := fun _ _ _ hidle hstep ht herr =>
  (issueCommand_eq_complete_of_error hstep ht herr).trans (complete_of_idle hidle _)

/-- Settles O29: CHIP_INIT is the first thing each of the five commands tests (R239). -/
theorem noInitStopsBusCommands : Obligations.NoInitStopsBusCommands := by
  intro s f w hidle hinit i hi
  simp only [List.mem_cons, List.not_mem_nil, or_false] at hi
  obtain rfl | rfl | rfl | rfl | rfl := hi
  · exact exec_program_of_noInit hidle hinit
  · exact exec_setFreq_of_noInit hidle hinit
  · exact exec_fmRun_of_noInit hidle hinit
  · exact exec_amRun_of_noInit hidle hinit
  · exact exec_sweepRun_of_noInit hidle hinit

end Sys2Proof.Proofs
end

section
/-! PROOFS. A step of a block that no RESET_CHIP has initialised raises no strobe. -/

namespace Sys2Proof.Machine

/-- An event off the bus raises neither strobe. -/
theorem Event.ne_strobe_of_offBus {e : Event} (h : e.offBus = true) : e ≠ .wclk true ∧ e ≠ .fqud true :=
  ⟨(by rintro rfl; cases h), (by rintro rfl; cases h)⟩

end Sys2Proof.Machine

namespace Sys2Proof.Safety

open Sys2Proof.Machine

/-- Only a frame raises a strobe, and without CHIP_INIT the gate lets none be sent (R29, R271). -/
theorem InitGate.no_strobe_of_busEffect {s t : State} {es : List Event} (hgate : InitGate s)
    (hinit : s.chipInit = false) (hbus : BusEffect s t es) : ∀ e ∈ es, e ≠ .wclk true ∧ e ≠ .fqud true := by
  cases hbus with
  | none es hes => exact fun e he => Event.ne_strobe_of_offBus (List.all_eq_true.mp hes e he)
  | frame before after hbefore hafter hready =>
    have hset : s.chipInit = true := hready.elim hgate.loops id
    simp [hinit] at hset
  | chipReset => decide
  | blockReset => decide

end Sys2Proof.Safety
end

section
/-! PROOFS. The obligation of 70_reset_and_hazards.md. -/

namespace Sys2Proof.Proofs

open Sys2Proof.Machine Sys2Proof.Safety

/-- Settles O52: by the events of a step, none of which is a frame's while CHIP_INIT = 0. -/
theorem noStrobeBeforeChipReset : Obligations.NoStrobeBeforeChipReset := by
  intro s t hgate hinit hstep
  obtain ⟨es, hemits, hbus, -⟩ := step_emits hstep
  exact ⟨es, hemits.trace, hgate.no_strobe_of_busEffect hinit hbus⟩

end Sys2Proof.Proofs
end

section
/-! PROOFS. The invariants of R49 in three parts (the lines in each phase, the committed frequencies, the registers of a
running sweep), and how the reset step, the issue steps and the loop steps keep them. -/

namespace Sys2Proof.Machine

/-- What a step leaves, whatever the inputs: a block reset, the block as it was, the end of an issue step, or the loop
step of the phase. An illegal word ends as a refused command does (R238). -/
theorem step_effects {s t : State} (h : step s = .next t) :
    t = advanceInputs (blockReset s) ∨ t = advanceInputs s ∨
      (s.phase = .idle ∧ ∃ i u, IssueEffect (acceptCommand s) i u ∧ t = advanceInputs u) ∨
      (s.phase ≠ .idle ∧ ∃ keyHeld keyReady, t = advanceInputs (runPhase keyHeld keyReady s)) := by
  obtain ⟨-, ht⟩ | ⟨-, -, -, ht⟩ | ⟨-, hp, -, i, u, -, hu, ht⟩ | ⟨-, hp, -, -, ht⟩ | ⟨-, hp, ht⟩ := step_cases h
  · exact .inl ht
  · exact .inr (.inl ht)
  · exact .inr (.inr (.inl ⟨hp, i, u, exec_effect hu, ht⟩))
  · exact .inr (.inr (.inl ⟨hp, .nop, _, .refused .nop .illegal (by decide), ht⟩))
  · exact .inr (.inr (.inr ⟨hp, _, _, ht⟩))

/-- The levels of the output lines in a phase at SW_K = `k`, AMP_DUTY being `duty` (R49). -/
def Phase.lines (k : BitVec 9) (duty : Byte) : Phase → Lines
  | .idle | .releaseWait => { Lines.reset with ampDuty := duty }
  | .fmLoop => { Lines.reset with ampDuty := duty, intDis := true }
  | .amLoop => { Lines.reset with ampDuty := duty, intDis := true, ampEn := true }
  | .sweepRamp => { Lines.reset with ampDuty := duty, sync := decide (1 ≤ k.toNat) }
  | .sweepEnd => { Lines.reset with ampDuty := duty, sync := true }

/-- A frame leaves the lines of every phase as they are. -/
theorem Phase.lines_idleBus (p : Phase) (k : BitVec 9) (duty : Byte) :
    { p.lines k duty with d := 0x00, wClk := false, fqUd := false } = p.lines k duty := by
  cases p <;> rfl

/-- Within a ramp SW_K does not wrap. -/
theorem toNat_swK_succ {k : BitVec 9} (hk : k.toNat ≤ 255) : (k + 1).toNat = k.toNat + 1 := by
  rw [swK_succ_eq_ofNat, BitVec.toNat_ofNat]
  omega

/-- A ramp step leaves SYNC high: step 0 raises it, and the later ones find it high (R182). -/
theorem sync_of_ramp (k : BitVec 9) : (if k = 0 then true else decide (1 ≤ k.toNat)) = true := by
  split
  · rfl
  · next hk => exact decide_eq_true (Nat.one_le_iff_ne_zero.mpr fun h => hk (BitVec.eq_of_toNat_eq h))

/-- Past step 0, in the ramp or at its poll, SYNC is high (R49). -/
theorem Phase.lines_of_ramp {k : BitVec 9} (hk : 1 ≤ k.toNat) (duty : Byte) (last : Prop) [Decidable last] :
    (if last then Phase.sweepEnd else .sweepRamp).lines k duty = { Lines.reset with ampDuty := duty, sync := true } := by
  split
  · rfl
  · simp [Phase.lines, hk]

end Sys2Proof.Machine

namespace Sys2Proof.Safety

open Sys2Proof.Machine

/-- Every line stands where its phase puts it: the clauses of R49 on the lines. -/
def LinesOfPhase (s : State) : Prop := ∃ duty, s.lines = s.phase.lines s.swK duty

/-- FA and FB lie in the commit range: the clauses of R49 on them. -/
structure Committed (s : State) : Prop where
  fa : inCommitRange s.fa.toInt
  fb : inCommitRange s.fb.toInt

/-- SW_K and the top of the ramp while a sweep runs: the clauses of R49 on the sweep registers. -/
structure SweepBounds (s : State) : Prop where
  ramp : s.phase = .sweepRamp → s.swK.toNat ≤ 255
  poll : s.phase = .sweepEnd → s.swK.toNat ≤ 256
  top  : s.phase = .sweepRamp ∨ s.phase = .sweepEnd → s.swLow.toInt + s.swSpan.toNat ≤ 124999900

/-- The clauses on the lines give every level but AMP_DUTY, which R49 leaves open. -/
theorem Inv.linesOfPhase {s : State} (h : Inv s) : LinesOfPhase s := by
  obtain ⟨-, -, hint, hamp, hsync, ⟨hclk, hupd, hrst⟩, hd, -⟩ := h
  refine ⟨s.lines.ampDuty, ?_⟩
  generalize s.lines = l at *
  obtain ⟨d, wClk, fqUd, ddsReset, sync, ampEn, ampDuty, intDis⟩ := l
  subst hint hamp hsync hclk hupd hrst hd
  cases s.phase <;> simp [Phase.lines, Lines.reset]

/-- The three parts are the whole of R49: BUSY and MODE show the phase in every state (R26, R27). -/
theorem inv_of_parts {s : State} (hlines : LinesOfPhase s) (hcommit : Committed s) (hsweep : SweepBounds s) : Inv s := by
  obtain ⟨duty, hlines⟩ := hlines
  obtain ⟨hbusy, -⟩ := statusOf_flags _ _ _ _ _ _ _ _ (winRead_status s)
  constructor
  case busy => rw [hbusy]; cases s.phase <;> rfl
  case mode => rw [winRead_status, statusOf_mode]
  case fa => exact hcommit.fa
  case fb => exact hcommit.fb
  case sweepK =>
    rintro (hp | hp)
    · have := hsweep.ramp hp
      omega
    · exact ⟨hsweep.poll hp, fun _ => hp⟩
  case sweepTop => exact hsweep.top
  all_goals
    rw [hlines]
    cases s.phase <;> simp [Phase.lines, Lines.reset]

theorem Inv.committed {s : State} (h : Inv s) : Committed s := ⟨h.fa, h.fb⟩

/-- Whatever writes neither FA nor FB keeps them committed. -/
theorem Committed.of_eq {s t : State} (h : Committed s) (hfa : t.fa = s.fa) (hfb : t.fb = s.fb) : Committed t :=
  ⟨hfa ▸ h.fa, hfb ▸ h.fb⟩

theorem Inv.sweepBounds {s : State} (h : Inv s) : SweepBounds s where
  ramp hp := by
    obtain ⟨hle, hend⟩ := h.sweepK (.inl hp)
    have hne : s.swK.toNat ≠ 256 := fun hk => by simp [hp] at hend; exact hend hk
    omega
  poll hp := (h.sweepK (.inr hp)).1
  top := h.sweepTop

/-- In IDLE no sweep runs. -/
theorem sweepBounds_of_idle {s : State} (hidle : s.phase = .idle) : SweepBounds s := by
  constructor <;> simp [hidle]

/-! ### The reset step and the environment -/

theorem inCommitRange_faReset : inCommitRange State.reset.fa.toInt := by decide

theorem inCommitRange_fbReset : inCommitRange State.reset.fb.toInt := by decide

theorem inv_blockReset (s : State) : Inv (blockReset s) :=
  inv_of_parts ⟨0x00, rfl⟩ ⟨inCommitRange_faReset, inCommitRange_fbReset⟩ (sweepBounds_of_idle rfl)

/-- No invariant of R49 speaks of the environment. -/
theorem Inv.mapEnv {s : State} (h : Inv s) (f : Env → Env) : Inv (Machine.mapEnv f s) :=
  ⟨h.busy, h.mode, h.intDis, h.ampEn, h.sync, h.strobes, h.bus, h.fa, h.fb, h.sweepK, h.sweepTop⟩

theorem Inv.advanceInputs {s : State} (h : Inv s) : Inv (Machine.advanceInputs s) := h.mapEnv Env.advance

theorem Inv.acceptCommand {s : State} (h : Inv s) : Inv (Machine.acceptCommand s) :=
  h.mapEnv fun _ => (Machine.acceptCommand s).env

/-! ### The issue step -/

/-- A command that ends in IDLE keeps the invariants if it leaves the lines alone and commits FA and FB in range. -/
theorem Inv.of_idle {s t : State} (h : Inv s) (hs : s.phase = .idle) (ht : t.phase = .idle) (hlines : t.lines = s.lines)
    (hcommit : Committed t) : Inv t := by
  obtain ⟨duty, hduty⟩ := h.linesOfPhase
  refine inv_of_parts ⟨duty, ?_⟩ hcommit (sweepBounds_of_idle ht)
  rw [hlines, hduty, hs, ht]
  rfl

/-- A command that sends a frame finds the bus and the strobes idle, and leaves them so. -/
theorem Inv.complete_sendFrame {s : State} (h : Inv s) (hs : s.phase = .idle) (w : Word) :
    Inv (complete .ok (sendFrame w s)) := by
  refine h.of_idle hs rfl ?_ (h.committed.of_eq (by simp) (by simp))
  obtain ⟨duty, hduty⟩ := h.linesOfPhase
  rw [complete_lines, sendFrame_lines, hduty, Phase.lines_idleBus]

/-- The span of a sweep between committed endpoints ends at a committed frequency (R181). -/
theorem Inv.sweepEndpoints_top {s : State} (h : Inv s) :
    (sweepEndpoints s).1.toInt + ((sweepEndpoints s).2 - (sweepEndpoints s).1).toNat ≤ 124999900 := by
  obtain ⟨hlow, hspan⟩ := sweepEndpoints_spec s
  obtain ⟨-, ha⟩ := h.fa
  obtain ⟨-, hb⟩ := h.fb
  rw [hlow, hspan, ← max_sub_min_eq_abs, add_sub_cancel]
  exact max_le ha hb

/-- Every way an issue step can end keeps the invariants. -/
theorem Inv.of_issueEffect {s t : State} {i : Instr} (h : Inv s) (hs : s.phase = .idle) (he : IssueEffect s i t) :
    Inv t := by
  obtain ⟨duty, hlines⟩ := h.linesOfPhase
  rw [hs] at hlines
  have hcommit := h.committed
  cases he with
  | nop | refused | tune => exact h.of_idle hs rfl rfl ⟨hcommit.fa, hcommit.fb⟩
  | setFa f hf =>
    rw [signedOperand_eq_toInt] at hf
    exact h.of_idle hs rfl rfl ⟨hf, hcommit.fb⟩
  | setFb f hf =>
    rw [signedOperand_eq_toInt] at hf
    exact h.of_idle hs rfl rfl ⟨hcommit.fa, hf⟩
  | program w => exact h.complete_sendFrame hs w
  | setFreq f => exact h.complete_sendFrame hs _
  | resetChip =>
    rw [emitAll_eq]
    refine h.of_idle hs rfl ?_ ⟨hcommit.fa, hcommit.fb⟩
    rw [complete_lines, hlines]
    rfl
  | fmRun =>
    refine inv_of_parts ⟨duty, ?_⟩ ⟨hcommit.fa, hcommit.fb⟩ (by constructor <;> simp)
    rw [emit_lines, hlines]
    rfl
  | amRun =>
    rw [emitAll_eq]
    refine inv_of_parts ⟨duty, ?_⟩ ⟨hcommit.fa, hcommit.fb⟩ (by constructor <;> simp)
    rw [hlines]
    rfl
  | sweepRun =>
    exact inv_of_parts ⟨duty, hlines⟩ ⟨hcommit.fa, hcommit.fb⟩
      ⟨fun _ => Nat.zero_le _, nofun, fun _ => h.sweepEndpoints_top⟩

/-! ### The loop step -/

/-- Each loop step moves the lines and the phase together. -/
theorem LinesOfPhase.runPhase {s : State} (h : LinesOfPhase s) (hsweep : SweepBounds s) (keyHeld keyReady : Bool) :
    LinesOfPhase (runPhase keyHeld keyReady s) := by
  obtain ⟨duty, hlines⟩ := h
  cases hp : s.phase with
  | idle =>
    rw [hp] at hlines
    exact ⟨duty, by simp only [Machine.runPhase, hp, hlines]⟩
  | fmLoop =>
    rw [runPhase_of_fmLoop _ _ hp, runFmLoop_eq, hlines, hp]
    refine ⟨duty, ?_⟩
    cases keyHeld <;> rfl
  | amLoop =>
    rw [runPhase_of_amLoop _ _ hp, runAmLoop_eq, hlines, hp]
    refine ⟨tableGet s.amTable s.idx, ?_⟩
    cases keyHeld <;> rfl
  | sweepRamp =>
    have hk : 1 ≤ (s.swK + 1).toNat := by rw [toNat_swK_succ (hsweep.ramp hp)]; omega
    rw [runPhase_of_sweepRamp _ _ hp, runSweepRamp_eq, hlines, hp]
    refine ⟨duty, ?_⟩
    rw [Phase.lines_of_ramp hk]
    dsimp only [Phase.lines]
    rw [sync_of_ramp]
    rfl
  | sweepEnd =>
    rw [runPhase_of_sweepEnd _ _ hp, runSweepEnd_eq, hlines, hp]
    refine ⟨duty, ?_⟩
    cases keyReady <;> rfl
  | releaseWait =>
    rw [runPhase_of_releaseWait _ _ hp, runReleaseWait_eq, hlines, hp]
    refine ⟨duty, ?_⟩
    cases keyHeld <;> rfl

/-- A ramp step counts SW_K up to 256, where the poll follows; the poll may set it to 0 (R182, R184). -/
theorem SweepBounds.runPhase {s : State} (h : SweepBounds s) (keyHeld keyReady : Bool) :
    SweepBounds (runPhase keyHeld keyReady s) := by
  cases hp : s.phase with
  | idle => simpa only [Machine.runPhase, hp]
  | fmLoop =>
    rw [runPhase_of_fmLoop _ _ hp, runFmLoop_eq, hp]
    cases keyHeld <;> constructor <;> simp
  | amLoop =>
    rw [runPhase_of_amLoop _ _ hp, runAmLoop_eq, hp]
    cases keyHeld <;> constructor <;> simp
  | sweepRamp =>
    have hramp := h.ramp hp
    have htop := h.top (.inl hp)
    rw [runPhase_of_sweepRamp _ _ hp, runSweepRamp_eq, hp]
    simp only [swK_succ_eq_rampSteps_iff]
    refine ⟨fun hnext => ?_, fun _ => ?_, fun _ => htop⟩ <;> dsimp only at *
    · have hk : s.swK.toNat ≠ 255 := fun hlast => by simp [hlast] at hnext
      rw [toNat_swK_succ hramp]
      omega
    · rw [toNat_swK_succ hramp]
      omega
  | sweepEnd =>
    have htop := h.top (.inr hp)
    rw [runPhase_of_sweepEnd _ _ hp, runSweepEnd_eq]
    refine ⟨?_, ?_, fun _ => htop⟩ <;> cases keyReady <;> simp
  | releaseWait =>
    rw [runPhase_of_releaseWait _ _ hp, runReleaseWait_eq, hp]
    cases keyHeld <;> constructor <;> simp

/-- Every loop step keeps the invariants; it does not write FA or FB. -/
theorem Inv.runPhase {s : State} (h : Inv s) (keyHeld keyReady : Bool) : Inv (runPhase keyHeld keyReady s) := by
  obtain ⟨hfa, hfb, -⟩ := runPhase_frame keyHeld keyReady s
  exact inv_of_parts (h.linesOfPhase.runPhase h.sweepBounds keyHeld keyReady) (h.committed.of_eq hfa hfb)
    (h.sweepBounds.runPhase keyHeld keyReady)

end Sys2Proof.Safety
end

section
/-! PROOFS. The chip-reset gate, the tables of a running loop and the registers of a running sweep over the reset step,
the issue steps and the loop steps (R29, R36, R37, R38). -/

namespace Sys2Proof.Machine

section
variable {keyHeld keyReady : Bool} {s : State}

/-- No loop step enters a modulation loop (R221). -/
theorem phase_of_runPhase_modulating
    (ht : (runPhase keyHeld keyReady s).phase = .fmLoop ∨ (runPhase keyHeld keyReady s).phase = .amLoop) :
    (runPhase keyHeld keyReady s).phase = s.phase := by
  by_contra hmove
  obtain ⟨-, h, -⟩ | ⟨-, h, -⟩ | ⟨-, h⟩ | ⟨-, h, -⟩ | ⟨-, h, -⟩ := runPhase_moves hmove <;> simp [h] at ht

/-- A loop step that leaves a sweep running found it running (R221). -/
theorem sweeping_of_runPhase_sweeping
    (ht : (runPhase keyHeld keyReady s).phase = .sweepRamp ∨ (runPhase keyHeld keyReady s).phase = .sweepEnd) :
    s.phase = .sweepRamp ∨ s.phase = .sweepEnd := by
  by_cases hmove : (runPhase keyHeld keyReady s).phase = s.phase
  · rwa [hmove] at ht
  · obtain ⟨-, h, -⟩ | ⟨-, h, -⟩ | ⟨h, -⟩ | ⟨h, -⟩ | ⟨h, -⟩ := runPhase_moves hmove
    · simp [h] at ht
    · simp [h] at ht
    · exact .inl h
    · exact .inr h
    · exact .inr h
end

end Sys2Proof.Machine

namespace Sys2Proof.Safety

open Sys2Proof.Machine

section
variable {s t : State} {i : Instr}

/-! ### The chip-reset gate -/

theorem initGate_of_chipInit (hinit : s.chipInit = true) : InitGate s := ⟨fun _ => hinit, fun _ => hinit⟩

/-- A block in IDLE passes the gate if its record is valid only with CHIP_INIT set. -/
theorem initGate_of_idle (hidle : s.phase = .idle) (hvalid : s.ddsValid = true → s.chipInit = true) : InitGate s :=
  ⟨absurd hidle, hvalid⟩

/-- Each command that starts a loop or sends a frame has tested CHIP_INIT. -/
theorem InitGate.of_issueEffect (h : InitGate s) (he : IssueEffect s i t) : InitGate t := by
  cases he with
  | nop | refused | setFa | setFb | tune => exact initGate_of_idle rfl h.valid
  | program w hinit | setFreq f hinit => exact initGate_of_chipInit (by simpa [setF] using hinit)
  | resetChip => exact initGate_of_chipInit rfl
  | fmRun hinit | sweepRun hinit => exact initGate_of_chipInit hinit
  | amRun hinit => exact initGate_of_chipInit (by rw [emitAll_eq]; exact hinit)

/-- A loop runs only with CHIP_INIT set, and its steps keep it. -/
theorem InitGate.runPhase (h : InitGate s) (hbusy : s.phase ≠ .idle) (keyHeld keyReady : Bool) :
    InitGate (runPhase keyHeld keyReady s) := by
  obtain ⟨-, -, -, hinit, -⟩ := runPhase_frame keyHeld keyReady s
  exact initGate_of_chipInit (hinit.trans (h.loops hbusy))

/-! ### The tables of a running loop -/

theorem freshTables_of_not_modulating (hfm : s.phase ≠ .fmLoop) (ham : s.phase ≠ .amLoop) : FreshTables s :=
  ⟨fun hp => absurd hp hfm, fun hp => absurd hp ham⟩

/-- FM_RUN and AM_RUN compute the table of the loop they start from FA; no other command starts such a loop. -/
theorem freshTables_of_issueEffect (he : IssueEffect s i t) : FreshTables t := by
  cases he with
  | nop | refused | setFa | setFb | tune | program | setFreq | resetChip | sweepRun =>
    exact freshTables_of_not_modulating nofun nofun
  | fmRun => exact ⟨fun _ k => by simp [fmTable, fmSum, frequencyOf], nofun⟩
  | amRun => exact ⟨nofun, fun _ => by simp [emitAll_eq, frequencyOf]⟩

/-- A loop step writes neither the tables nor FA. -/
theorem FreshTables.runPhase (h : FreshTables s) (keyHeld keyReady : Bool) :
    FreshTables (runPhase keyHeld keyReady s) := by
  obtain ⟨hfa, -, -, -, hfmtw, hctw, -, -, hoff, -⟩ := runPhase_frame keyHeld keyReady s
  refine ⟨fun hp => ?_, fun hp => ?_⟩
  · rw [hfa, hfmtw, hoff]
    exact h.fm ((phase_of_runPhase_modulating (.inl hp)).symm.trans hp)
  · rw [hfa, hctw]
    exact h.am ((phase_of_runPhase_modulating (.inr hp)).symm.trans hp)

/-! ### The registers of a running sweep -/

theorem sweepRegs_of_not_sweeping (h : ¬(s.phase = .sweepRamp ∨ s.phase = .sweepEnd)) : SweepRegs s :=
  ⟨fun hp => absurd hp h, fun hp => absurd hp h⟩

/-- SWEEP_RUN computes the registers from FA and FB; no other command starts a sweep. -/
theorem sweepRegs_of_issueEffect (he : IssueEffect s i t) : SweepRegs t := by
  cases he with
  | nop | refused | setFa | setFb | tune | program | setFreq | resetChip | fmRun | amRun =>
    exact sweepRegs_of_not_sweeping nofun
  | sweepRun =>
    obtain ⟨hlow, hspan⟩ := sweepEndpoints_spec s
    exact ⟨fun _ => hlow, fun _ => hspan⟩

/-- A loop step writes none of FA, FB, SW_LOW and SW_SPAN. -/
theorem SweepRegs.runPhase (h : SweepRegs s) (keyHeld keyReady : Bool) : SweepRegs (runPhase keyHeld keyReady s) := by
  obtain ⟨hfa, hfb, -, -, -, -, hlow, hspan, -⟩ := runPhase_frame keyHeld keyReady s
  refine ⟨fun hp => ?_, fun hp => ?_⟩
  · rw [hfa, hfb, hlow]
    exact h.low (sweeping_of_runPhase_sweeping hp)
  · rw [hfa, hfb, hspan]
    exact h.span (sweeping_of_runPhase_sweeping hp)
end

/-! ### The environment and the reset step -/

theorem InitGate.acceptCommand {s : State} (h : InitGate s) : InitGate (Machine.acceptCommand s) := ⟨h.loops, h.valid⟩

theorem InitGate.advanceInputs {s : State} (h : InitGate s) : InitGate (Machine.advanceInputs s) := ⟨h.loops, h.valid⟩

theorem FreshTables.advanceInputs {s : State} (h : FreshTables s) : FreshTables (Machine.advanceInputs s) :=
  ⟨h.fm, h.am⟩

theorem SweepRegs.advanceInputs {s : State} (h : SweepRegs s) : SweepRegs (Machine.advanceInputs s) :=
  ⟨h.low, h.span⟩

theorem initGate_blockReset (s : State) : InitGate (blockReset s) := initGate_of_idle rfl nofun

theorem freshTables_blockReset (s : State) : FreshTables (blockReset s) := freshTables_of_not_modulating nofun nofun

theorem sweepRegs_blockReset (s : State) : SweepRegs (blockReset s) := sweepRegs_of_not_sweeping nofun

end Sys2Proof.Safety
end

section
/-! PROOFS. What holds of the state after reset beside the invariants of a block reset, and safe runs step by step. -/

namespace Sys2Proof.Safety

open Sys2Proof.Machine

/-- The power-on state holds every line at its reset level, after the one BLOCK_RESET event. -/
theorem linesFollowTrace_reset : LinesFollowTrace State.reset := by
  constructor <;> rfl

/-- Every value of the open FM table lies within the peak excursion (R7, R39). -/
theorem offsetsBounded_reset : OffsetsBounded State.reset := by
  intro i
  have hcode := (Config.fmOffsetCode i).isLt
  have hi : (State.reset.fmOffset[i]).toInt = ((Config.fmOffsetCode i).val : Int) - 75000 := by
    simp only [State.reset, Fin.getElem_fin, Vector.getElem_ofFn, Config.fmPeak]
    exact BitVec.toInt_ofInt_eq_self (by decide) (by norm_num; omega) (by norm_num; omega)
  rw [hi, abs_le]
  omega

/-- A chip powered up in any state sees its strobes put low by the power-on reset, and nothing is claimed of the rest of
it before a RESET_CHIP (R262). -/
theorem chipAgrees_reset (c : Chip) : ChipAgrees c State.reset := ⟨⟨rfl, rfl⟩, nofun, nofun⟩

theorem safeRun_zero {s : State} (h : Inv s) : SafeRun 0 s := ⟨s, run_zero s, h⟩

theorem safeRun_succ {n : Nat} {s t : State} (hstep : step s = .next t) (h : SafeRun n t) : SafeRun (n + 1) s := by
  obtain ⟨u, hu, hinv⟩ := h
  exact ⟨u, (run_succ n hstep).trans hu, hinv⟩

end Sys2Proof.Safety
end

section
/-! PROOFS. The obligations on the invariants and on runs of any length. -/

namespace Sys2Proof.Proofs

open Sys2Proof.Machine Sys2Proof.Safety

/-- Settles O54: the reset step, the issue steps and the loop steps each keep the invariants. -/
theorem stepKeepsInv : Obligations.StepKeepsInv := by
  intro s t h hstep
  obtain rfl | rfl | ⟨hp, i, u, he, rfl⟩ | ⟨-, keyHeld, keyReady, rfl⟩ := step_effects hstep
  · exact (inv_blockReset s).advanceInputs
  · exact h.advanceInputs
  · exact (h.acceptCommand.of_issueEffect hp he).advanceInputs
  · exact (h.runPhase keyHeld keyReady).advanceInputs

/-- Settles O57: each of the three holds of what the reset step and the issue steps leave, and a loop step keeps it. -/
theorem stepKeepsLoopInvariants : Obligations.StepKeepsLoopInvariants := by
  intro s t hstep
  obtain rfl | rfl | ⟨-, i, u, he, rfl⟩ | ⟨hp, keyHeld, keyReady, rfl⟩ := step_effects hstep
  · exact ⟨fun _ => (initGate_blockReset s).advanceInputs, fun _ => (freshTables_blockReset s).advanceInputs,
      fun _ => (sweepRegs_blockReset s).advanceInputs⟩
  · exact ⟨InitGate.advanceInputs, FreshTables.advanceInputs, SweepRegs.advanceInputs⟩
  · exact ⟨fun h => (h.acceptCommand.of_issueEffect he).advanceInputs,
      fun _ => (freshTables_of_issueEffect he).advanceInputs, fun _ => (sweepRegs_of_issueEffect he).advanceInputs⟩
  · exact ⟨fun h => (h.runPhase hp keyHeld keyReady).advanceInputs,
      fun h => (h.runPhase keyHeld keyReady).advanceInputs, fun h => (h.runPhase keyHeld keyReady).advanceInputs⟩

/-- Settles O53: in each of the four cases of the enabled step. -/
theorem everyStepAnswersNext : Obligations.EveryStepAnswersNext := by
  intro s
  obtain ⟨hreset, hwait, hissue, hrun⟩ := stepTakesTheEnabledStep s
  cases hrst : s.env.pins.rst with
  | true => exact ⟨_, hreset hrst⟩
  | false =>
    by_cases hp : s.phase = .idle
    · cases hcmd : s.env.pins.cmdValid with
      | true =>
        obtain ⟨t, -, ht⟩ := hissue hrst hp hcmd
        exact ⟨_, ht⟩
      | false => exact ⟨_, hwait hrst hp hcmd⟩
    · exact ⟨_, hrun hrst hp⟩

/-- Settles O56, by induction on the length of the run: its first step answers a state of the invariants. -/
theorem everyRunIsSafe : Obligations.EveryRunIsSafe := by
  intro n
  induction n with
  | zero => exact fun s h => safeRun_zero h
  | succ n ih =>
    intro s h
    obtain ⟨t, ht⟩ := everyStepAnswersNext s
    exact safeRun_succ ht (ih t (stepKeepsInv s t h ht))

/-- Settles O55: the power-on state is a block reset's; its trace, its FM table and the chip have their own lemmas. -/
theorem invariantsAtReset : Obligations.InvariantsAtReset := by
  refine ⟨?_, ?_, ?_, ?_, linesFollowTrace_reset, offsetsBounded_reset, chipAgrees_reset⟩ <;> rw [reset_eq_blockReset]
  · exact inv_blockReset _
  · exact initGate_blockReset _
  · exact freshTables_blockReset _
  · exact sweepRegs_blockReset _

end Sys2Proof.Proofs
end

section
/-! PROOFS. The fold and the tuning word over the domain (R101 to R105), and the chip's output for it (R110). -/

namespace Sys2Proof.Machine

section
variable {f g : Int}

theorem fold_of_le (h : f ≤ 62500000) : fold f = f := if_neg (not_lt.mpr h)

theorem fold_of_gt (h : 62500000 < f) : fold f = 125000000 - f := if_pos h

/-- A frequency and its mirror image at 62,500,000 fold to one (R105). -/
theorem fold_mirror (f : Int) : fold (125000000 - f) = fold f := by
  obtain h | rfl | h := lt_trichotomy f 62500000
  · rw [fold_of_gt (by omega), fold_of_le h.le]
    omega
  · rfl
  · rw [fold_of_le (by omega), fold_of_gt h]

/-- The fold reaches its top at one frequency only. -/
theorem fold_eq_top_iff : fold f = 62500000 ↔ f = 62500000 := by
  obtain h | h := le_or_gt f 62500000
  · rw [fold_of_le h]
  · rw [fold_of_gt h]
    omega

/-- The direct range lies in the domain (R104). -/
theorem inDomain_of_direct (hlo : 0 ≤ f) (hhi : f ≤ 62500000) : inDomain f := ⟨hlo, hhi.trans (by decide)⟩

/-- So does the range above the fold (R104). -/
theorem inDomain_of_folded (hlo : 62500000 < f) (hhi : f ≤ 125000000) : inDomain f := ⟨by omega, hhi⟩

/-- The mirror image of a frequency of the domain is in the domain (R105). -/
theorem inDomain_mirror (h : inDomain f) : inDomain (125000000 - f) := by
  simp only [inDomain, Config.fRef] at h ⊢
  omega

/-- The tuning word depends on the folded frequency alone (R101). -/
theorem tuningWord_eq_of_fold_eq (hf : inDomain f) (hg : inDomain g) (h : fold f = fold g) :
    tuningWord f = tuningWord g := by
  rw [tuningWord_of_inDomain hf, tuningWord_of_inDomain hg, h]

/-- The tuning word grows with the folded frequency (R104). -/
theorem tuningWord_le_of_fold_le (hf : inDomain f) (hg : inDomain g) (h : fold f ≤ fold g) :
    (tuningWord f).toNat ≤ (tuningWord g).toNat := by
  have hfw := tuningWord_toNat hf
  have hgw := tuningWord_toNat hg
  omega

/-- The tuning word reaches 2^31 where the fold reaches its top. -/
theorem tuningWord_eq_top_iff (hf : inDomain f) : (tuningWord f).toNat = 2147483648 ↔ fold f = 62500000 := by
  have hw := tuningWord_toNat hf
  obtain ⟨-, hhi⟩ := fold_bounds hf
  omega

/-- The tuning word is the last one whose frequency in the scale of R110 does not pass the folded frequency. -/
theorem tuningWord_floor (hf : inDomain f) :
    ((tuningWord f).toNat : Int) * 125000000 ≤ fold f * 4294967296 ∧
      fold f * 4294967296 < ((tuningWord f).toNat + 1) * 125000000 := by
  have hw := tuningWord_toNat hf
  omega

/-- The chip's output for a tuning word is at most the folded frequency, and less than one step below it (R110). -/
theorem outputFrequency_tuningWord_bounds (hf : inDomain f) :
    outputFrequency (tuningWord f) ≤ fold f ∧
      (fold f : Rat) < outputFrequency (tuningWord f) + 125000000 / 4294967296 := by
  obtain ⟨hlo, hhi⟩ := tuningWord_floor hf
  have hlo' : ((tuningWord f).toNat : Rat) * 125000000 ≤ fold f * 4294967296 := by exact_mod_cast hlo
  have hhi' : (fold f : Rat) * 4294967296 < ((tuningWord f).toNat + 1) * 125000000 := by exact_mod_cast hhi
  rw [outputFrequency, ← add_div, div_le_iff₀ (by norm_num), lt_div_iff₀ (by norm_num)]
  exact ⟨hlo', by linarith⟩
end

end Sys2Proof.Machine
end

section
/-! PROOFS. The ramp value over its step, and its accumulator form (R183, R185). -/

namespace Sys2Proof.Machine

open Sys2Proof.Safety

theorem rampValue_mono (low span : Word) {j k : Nat} (h : j ≤ k) : rampValue low span j ≤ rampValue low span k := by
  have hdiv : j * span.toNat / 256 ≤ k * span.toNat / 256 := Nat.div_le_div_right (Nat.mul_le_mul_right _ h)
  rw [rampValue_eq, rampValue_eq]
  omega

/-- Through step 255 a ramp of a nonzero span does not reach the high endpoint (R185). -/
theorem rampValue_lt_top (low : Word) {span : Word} {k : Nat} (hk : k ≤ 255) (hspan : 0 < span.toNat) :
    rampValue low span k < low.toInt + span.toNat := by
  have hdiv : k * span.toNat / 256 < span.toNat :=
    Nat.div_lt_of_lt_mul (Nat.mul_lt_mul_of_pos_right (Nat.lt_succ_of_le hk) hspan)
  rw [rampValue_eq]
  omega

/-- The accumulator holds the quotient and the remainder of `k * span` by 256: the carried remainder loses nothing. -/
theorem rampAccumulator_eq (span k : Nat) : rampAccumulator span k = (k * span / 256, k * span % 256) := by
  induction k with
  | zero => simp [rampAccumulator]
  | succ k ih =>
    simp only [rampAccumulator, ih, Nat.succ_mul, Prod.mk.injEq]
    omega

end Sys2Proof.Machine
end

section
/-! PROOFS. The obligations on the tuning word and the ramp value. -/

namespace Sys2Proof.Proofs

open Sys2Proof.Machine Sys2Proof.Safety

/-- Settles O12: the tuning word follows the folded frequency, which rises to 62,500,000 and falls above it. -/
theorem tuningWordRisesThenFalls : Obligations.TuningWordRisesThenFalls := by
  refine ⟨fun f hlo hhi => ?_, fun f g hlo hle hhi => ?_, fun f g hlo hle hhi => ?_, fun f hlo hhi => ?_⟩
  · rw [tuningWord_toNat (inDomain_of_direct hlo hhi), fold_of_le hhi]
    rfl
  · apply tuningWord_le_of_fold_le (inDomain_of_direct hlo (hle.trans hhi)) (inDomain_of_direct (hlo.trans hle) hhi)
    rwa [fold_of_le (hle.trans hhi), fold_of_le hhi]
  · apply tuningWord_le_of_fold_le (inDomain_of_folded (hlo.trans_le hle) hhi) (inDomain_of_folded hlo (hle.trans hhi))
    rw [fold_of_gt hlo, fold_of_gt (hlo.trans_le hle)]
    omega
  · exact (tuningWord_eq_top_iff ⟨hlo, hhi⟩).trans fold_eq_top_iff

/-- Settles O13: a frequency and its mirror image fold to one; the notable points are computed, one of each pair. -/
theorem aliasSymmetry : Obligations.AliasSymmetry := by
  have hmirror : ∀ f : Int, 0 ≤ f → f ≤ 125000000 → tuningWord f = tuningWord (125000000 - f) := fun f hlo hhi =>
    have hf : inDomain f := ⟨hlo, hhi⟩
    tuningWord_eq_of_fold_eq hf (inDomain_mirror hf) (fold_mirror f).symm
  have hzero : tuningWord 0 = 0 := by decide
  have hhundred : tuningWord 100 = 3435 := by decide
  have hone : tuningWord 1 = 34 := by decide
  refine ⟨hmirror, ?_, hzero, ?_, hhundred, ?_, hone⟩
  · exact (hmirror 125000000 (by decide) le_rfl).trans hzero
  · exact (hmirror 124999900 (by decide) (by decide)).trans hhundred
  · exact (hmirror 124999999 (by decide) (by decide)).trans hone

/-- Settles O14: on the direct range the folded frequency is the request itself. -/
theorem outputWithinOneStepOfRequest : Obligations.OutputWithinOneStepOfRequest := by
  intro f hlo hhi
  have hbounds := outputFrequency_tuningWord_bounds (inDomain_of_direct hlo hhi)
  rwa [fold_of_le hhi] at hbounds

/-- Settles O37: the formula, and the accumulator as quotient and remainder. -/
theorem rampValues : Obligations.RampValues := by
  refine fun low span => ⟨rampValue_eq low span, ?_, fun j k => rampValue_mono low span,
    fun k => rampValue_lt_top low, fun k => ?_⟩
  · simp [rampValue_eq]
  · rw [rampValue_eq, rampAccumulator_eq]

/-- Settles O11: the two branches of the fold, and the two words at its boundary. -/
theorem foldBoundary : Obligations.FoldBoundary :=
  ⟨fun _ => fold_of_le, fun _ => fold_of_gt, by decide, by decide⟩

end Sys2Proof.Proofs
end

section
/-! PROOFS. Runs of a busy block, one loop step at a time: what the environment must have upcoming, and what has been
done after each number of steps (R153, R163, R185). -/

namespace Sys2Proof.Machine

theorem advanceInputs_runPhase_env (keyHeld keyReady : Bool) (s : State) :
    (advanceInputs (runPhase keyHeld keyReady s)).env = s.env.advance := by
  obtain ⟨-, -, -, -, -, -, -, -, -, -, henv⟩ := runPhase_frame keyHeld keyReady s
  rw [advanceInputs_env, henv]

/-- An index counted from 0 is the narrowed count (R35). -/
theorem idx_succ_eq_ofNat (j : Nat) : BitVec.ofNat 5 j + 1 = BitVec.ofNat 5 (j + 1) := (BitVec.ofNat_add j 1).symm

end Sys2Proof.Machine

namespace Sys2Proof.Safety

open Sys2Proof.Machine

/-- Upcoming levels are upcoming for a shorter time. -/
theorem Upcoming.of_le {m n : Nat} {p : Inputs → Prop} {s : State} (h : Upcoming n p s) (hmn : m ≤ n) :
    Upcoming m p s :=
  ⟨hmn.trans h.1, fun x hx => h.2 x (List.take_subset_take_left _ hmn hx)⟩

/-- The last of the upcoming levels has the property of all of them. -/
theorem Upcoming.last {n : Nat} {p : Inputs → Prop} {s : State} {x : Inputs} (h : Upcoming (n + 1) p s)
    (hx : (s.env.pins :: s.env.script)[n]? = some x) : p x := by
  refine h.2 x (List.mem_of_getElem? (i := n) ?_)
  rw [List.getElem?_take_of_lt n.lt_succ_self, hx]

/-- A run of `n` loop steps under upcoming levels: if each step takes what has been done after `j` steps to what has been
done after `j + 1`, the run does what is done after `n`. -/
theorem run_of_loopSteps {p : Inputs → Prop} (hhold : ∀ a b : Inputs, p b → p (a.holdCommand b)) (n : Nat)
    {Done : Nat → State → Prop}
    (hstep : ∀ j s, j < n → Done j s → p s.env.pins →
      step s = .next (advanceInputs (runPhase s.env.pins.keyHeld s.env.pins.keyReady s)) ∧
        Done (j + 1) (advanceInputs (runPhase s.env.pins.keyHeld s.env.pins.keyReady s)))
    {s : State} (h : Done 0 s) (hup : Upcoming n p s) :
    ∃ t : State, core.run n s = .next t ∧ Done n t ∧ t.env = Env.advance^[n] s.env := by
  induction n generalizing Done s with
  | zero => exact ⟨s, rfl, h, rfl⟩
  | succ n ih =>
    obtain ⟨hnext, hdone⟩ := hstep 0 s n.succ_pos h (upcoming_head hup)
    have henv := advanceInputs_runPhase_env s.env.pins.keyHeld s.env.pins.keyReady s
    obtain ⟨t, hrun, ht, htenv⟩ := ih (Done := fun j => Done (j + 1))
      (fun j u hj => hstep (j + 1) u (Nat.succ_lt_succ hj)) hdone (upcoming_tail hhold hup henv)
    exact ⟨t, (run_succ n hnext).trans hrun, ht, by rw [htenv, henv, Function.iterate_succ_apply]⟩

/-- Holding a command changes neither RST nor KEY_HELD. -/
theorem holdCommand_unheld (a b : Inputs) (hb : b.rst = false ∧ b.keyHeld = false) :
    (a.holdCommand b).rst = false ∧ (a.holdCommand b).keyHeld = false := by
  obtain ⟨hrst, hheld, -⟩ := holdCommand_levels a b
  rwa [hrst, hheld]

theorem holdCommand_noReset (a b : Inputs) (hb : b.rst = false) : (a.holdCommand b).rst = false :=
  (holdCommand_levels a b).1.trans hb

/-! ### FM_LOOP -/

/-- `t` is FM_LOOP `j` steps after `s`: the frames of entries 0, 1, … of the table, modulo 32, each with a kick. -/
structure FmWalked (s : State) (j : Nat) (t : State) : Prop where
  phase : t.phase = .fmLoop
  fmtw  : t.fmtw = s.fmtw
  idx   : t.idx = BitVec.ofNat 5 j
  trace : t.trace = s.trace ++ (List.range j).flatMap fun k => frame s.fmtw[k % 32] ++ [.wdt]

theorem FmWalked.step {s t : State} {j : Nat} (h : FmWalked s j t) (keyReady : Bool) :
    FmWalked s (j + 1) (advanceInputs (runPhase false keyReady t)) := by
  obtain ⟨hphase, hfmtw, hidx, htrace⟩ := h
  rw [runPhase_of_fmLoop _ _ hphase, runFmLoop_eq]
  refine ⟨hphase, hfmtw, ?_, ?_⟩
  · rw [advanceInputs_idx, hidx, idx_succ_eq_ofNat]
  · simp [htrace, hidx, hfmtw, tableGet_ofNat, List.range_succ]

/-! ### AM_LOOP -/

/-- `t` is AM_LOOP `j` steps after `s`: each sent the carrier's frame, the next sample of the table, modulo 32, and a
kick. -/
structure AmWalked (s : State) (j : Nat) (t : State) : Prop where
  phase   : t.phase = .amLoop
  ctw     : t.ctw = s.ctw
  amTable : t.amTable = s.amTable
  idx     : t.idx = BitVec.ofNat 5 j
  ddsWord : 0 < j → t.ddsWord = s.ctw
  trace   : t.trace = s.trace ++ (List.range j).flatMap fun k => frame s.ctw ++ [.duty s.amTable[k % 32], .wdt]

theorem AmWalked.step {s t : State} {j : Nat} (h : AmWalked s j t) (keyReady : Bool) :
    AmWalked s (j + 1) (advanceInputs (runPhase false keyReady t)) := by
  obtain ⟨hphase, hctw, htable, hidx, -, htrace⟩ := h
  rw [runPhase_of_amLoop _ _ hphase, runAmLoop_eq]
  refine ⟨hphase, hctw, htable, ?_, fun _ => hctw, ?_⟩
  · rw [advanceInputs_idx, hidx, idx_succ_eq_ofNat]
  · simp [htrace, hidx, hctw, htable, tableGet_ofNat, List.range_succ]

/-! ### SWEEP_RAMP -/

/-- `t` is the sweep `j` steps after `s`, up to its poll: SYNC(1) and the frames of the ramp's first `j` steps, each with
a kick. -/
structure Ramped (s : State) (j : Nat) (t : State) : Prop where
  phase  : t.phase = if j = 256 then .sweepEnd else .sweepRamp
  swK    : t.swK = BitVec.ofNat 9 j
  swLow  : t.swLow = s.swLow
  swSpan : t.swSpan = s.swSpan
  trace  : t.trace = s.trace ++ (if j = 0 then [] else [.sync true]) ++
    (List.range j).flatMap fun k => frame (tuningWord (rampValue s.swLow s.swSpan k)) ++ [.wdt]

theorem Ramped.step {s t : State} {j : Nat} (h : Ramped s j t) (hj : j < 256) (keyHeld keyReady : Bool) :
    Ramped s (j + 1) (advanceInputs (runPhase keyHeld keyReady t)) := by
  obtain ⟨hphase, hswK, hlow, hspan, htrace⟩ := h
  rw [if_neg hj.ne] at hphase
  have hk : t.swK.toNat = j := by rw [hswK, BitVec.toNat_ofNat]; omega
  have hzero : t.swK = 0 ↔ j = 0 := by rw [← BitVec.toNat_inj, hk]; rfl
  rw [runPhase_of_sweepRamp _ _ hphase, runSweepRamp_eq]
  refine ⟨?_, ?_, hlow, hspan, ?_⟩
  · simp only [advanceInputs_phase, swK_succ_eq_rampSteps_iff, hk, hphase]
    simp
  · rw [advanceInputs_swK, swK_succ_eq_ofNat, hk]
  · simp only [advanceInputs_trace, htrace, hk, hzero, hlow, hspan, List.range_succ]
    by_cases h0 : j = 0 <;> simp [h0]

end Sys2Proof.Safety
end

section
/-! PROOFS. The obligations on the runs of the loops. -/

namespace Sys2Proof.Proofs

open Sys2Proof.Machine Sys2Proof.Safety

/-- Settles O39: by what n steps of FM_LOOP have done. -/
theorem fmRunWalksTheTable : Obligations.FmRunWalksTheTable := by
  intro n s hphase hidx hup
  obtain ⟨t, hrun, ht, -⟩ := run_of_loopSteps holdCommand_unheld n (Done := FmWalked s)
    (fun j u _ hu ⟨hrst, hheld⟩ => ⟨step_of_busy hrst (by simp [hu.phase]), hheld ▸ hu.step _⟩)
    ⟨hphase, rfl, hidx, by simp⟩ hup
  exact ⟨t, hrun, ht.phase, ht.fmtw, by simp [ht.idx], ht.trace⟩

/-- Settles O40: by what n steps of AM_LOOP have done. -/
theorem amRunWalksTheTable : Obligations.AmRunWalksTheTable := by
  intro n s hphase hidx hup
  obtain ⟨t, hrun, ht, -⟩ := run_of_loopSteps holdCommand_unheld n (Done := AmWalked s)
    (fun j u _ hu ⟨hrst, hheld⟩ => ⟨step_of_busy hrst (by simp [hu.phase]), hheld ▸ hu.step _⟩)
    ⟨hphase, rfl, rfl, hidx, by simp, by simp⟩ hup
  exact ⟨t, hrun, ht.phase, ht.ctw, by simp [ht.idx], ht.ddsWord, ht.trace⟩

/-- Settles O41: 256 ramp steps, which read no keypad level, and the poll with the 257th levels. -/
theorem sweepRampIs257Frames : Obligations.SweepRampIs257Frames := by
  intro s x hphase hswK hup hx
  have hrst : x.rst = false := hup.last hx
  obtain ⟨t, hrun, ht, henv⟩ := run_of_loopSteps holdCommand_noReset 256 (Done := Ramped s)
    (fun j u hj hu hpins => ⟨step_of_busy hpins (by rw [hu.phase, if_neg hj.ne]; decide), hu.step hj _ _⟩)
    ⟨hphase, hswK, rfl, rfl, by simp⟩ (hup.of_le (by decide))
  obtain ⟨hpoll, -, hlow, hspan, htrace⟩ := ht
  obtain ⟨hrst', -, hready⟩ := advance_levels 256 s.env x hx
  rw [← henv] at hrst' hready
  have hstep := step_of_busy (hrst'.trans hrst) (show t.phase ≠ .idle by rw [hpoll]; decide)
  rw [runPhase_of_sweepEnd _ _ hpoll, runSweepEnd_eq, hready] at hstep
  refine ⟨_, (run_add 256 1 hrun).trans (run_succ 0 hstep), rfl, hlow, hspan, fun h => by simp [h],
    fun h => by simp [h], ?_⟩
  simp [htrace, hlow, frequencyOf]

end Sys2Proof.Proofs
end
